-- ==== Sys2Proof/Word.lean ====
section
/-! DEFINITION. Word.lean: the widths of Pixie's values (spec 00_scope.md R5, R7; 10_state.md R21, R25, R29, R36).
Every value the spec treats as bits is a bit vector; bit 0 is its least significant bit (R7). -/

namespace Sys2Proof

/-- A byte, 8 bits (R5). -/
abbrev Byte := BitVec 8

/-- A short, 16 bits (R19). -/
abbrev Short := BitVec 16

/-- A word, 32 bits: a general register, the machine status register, an instruction (R5, R80). -/
abbrev Word := BitVec 32

/-- A 20-bit address: of memory, in `pc` and in `ssp` (R5, R14). -/
abbrev Addr := BitVec 20

/-- A 5-bit register number; all 32 values name a register (R95). -/
abbrev Reg := BitVec 5

/-- A port number, 0 to 255 (R38). -/
abbrev Port := BitVec 8

/-- An interrupt vector, 0 to 63 (60_exceptions.md R252). -/
abbrev Vect := Fin 64

end Sys2Proof
end

