-- ==== Sys2Proof/Syntax.lean ====
section
/-! DEFINITION. Syntax.lean: the instructions, one constructor for each of the 74 rows of spec/opcode_table.json, in
the table's order. The operands of a constructor are the fields of its row, with the widths of the encoding
(30_encoding.md R81, R95, R96). -/

namespace Sys2Proof

/-- A Pixie instruction. A constructor's docstring gives the row's assembler form, its format and its rule. -/
inductive Instr where
  /-- `ADD DR, SR1, SR2`, format ALU-R (R111). -/
  | addR (dr sr1 sr2 : Reg)
  /-- `ADD DR, SR1, imm16`, format ALU-I (R112). -/
  | addI (dr sr1 : Reg) (imm16 : BitVec 16)
  /-- `SUB DR, SR1, SR2`, format ALU-R (R113). -/
  | subR (dr sr1 sr2 : Reg)
  /-- `SUB DR, SR1, imm16`, format ALU-I (R114). -/
  | subI (dr sr1 : Reg) (imm16 : BitVec 16)
  /-- `MULBI DR, SR1, SR2`, format MUL (R116). -/
  | mulbi (dr sr1 sr2 : Reg)
  /-- `MULSI DR, SR1, SR2`, format MUL (R117). -/
  | mulsi (dr sr1 sr2 : Reg)
  /-- `MULWI DR, SR1, SR2`, format MUL (R118). -/
  | mulwi (dr sr1 sr2 : Reg)
  /-- `MULBU DR, SR1, SR2`, format MUL (R119). -/
  | mulbu (dr sr1 sr2 : Reg)
  /-- `MULSU DR, SR1, SR2`, format MUL (R120). -/
  | mulsu (dr sr1 sr2 : Reg)
  /-- `MULWU DR, SR1, SR2`, format MUL (R121). -/
  | mulwu (dr sr1 sr2 : Reg)
  /-- `NEG DR, SR`, format UN (R122). -/
  | neg (dr sr : Reg)
  /-- `CMP SR1, SR2`, format CMP-R (R123). -/
  | cmpR (sr1 sr2 : Reg)
  /-- `CMP SR1, imm16`, format CMP-I (R124). -/
  | cmpI (sr1 : Reg) (imm16 : BitVec 16)
  /-- `AND DR, SR1, SR2`, format ALU-R (R131). -/
  | andR (dr sr1 sr2 : Reg)
  /-- `AND DR, SR1, imm16`, format ALU-I (R132). -/
  | andI (dr sr1 : Reg) (imm16 : BitVec 16)
  /-- `OR DR, SR1, SR2`, format ALU-R (R133). -/
  | orR (dr sr1 sr2 : Reg)
  /-- `OR DR, SR1, imm16`, format ALU-I (R134). -/
  | orI (dr sr1 : Reg) (imm16 : BitVec 16)
  /-- `NOT DR, SR`, format UN (R135). -/
  | not (dr sr : Reg)
  /-- `XOR DR, SR1, SR2`, format ALU-R (R136). -/
  | xorR (dr sr1 sr2 : Reg)
  /-- `XOR DR, SR1, imm16`, format ALU-I (R137). -/
  | xorI (dr sr1 : Reg) (imm16 : BitVec 16)
  /-- `SHFL DR, SR1, SR2`, format SHF-R (R139). -/
  | shflR (dr sr1 sr2 : Reg)
  /-- `SHFL DR, SR, imm5`, format SHF-I (R140). -/
  | shflI (dr sr : Reg) (imm5 : BitVec 5)
  /-- `SHFRZ DR, SR1, SR2`, format SHF-R (R141). -/
  | shfrzR (dr sr1 sr2 : Reg)
  /-- `SHFRZ DR, SR, imm5`, format SHF-I (R142). -/
  | shfrzI (dr sr : Reg) (imm5 : BitVec 5)
  /-- `SHFRA DR, SR1, SR2`, format SHF-R (R143). -/
  | shfraR (dr sr1 sr2 : Reg)
  /-- `SHFRA DR, SR, imm5`, format SHF-I (R144). -/
  | shfraI (dr sr : Reg) (imm5 : BitVec 5)
  /-- `JC[n][z][p] addr20`, format J-A (R150). -/
  | jcA (n p z : Bool) (addr20 : Addr)
  /-- `JC[n][z][p] [SR]`, format J-R (R151). -/
  | jcR (n p z : Bool) (sr : Reg)
  /-- `JC[n][z][p] [SR1+SR2]`, format J-X (R152). -/
  | jcX (n p z : Bool) (sr1 sr2 : Reg)
  /-- `JMP addr20`, format J-A (R154). -/
  | jmpA (addr20 : Addr)
  /-- `JMP [SR]`, format J-R (R155). -/
  | jmpR (sr : Reg)
  /-- `JMP [SR1+SR2]`, format J-X (R156). -/
  | jmpX (sr1 sr2 : Reg)
  /-- `CALL addr20`, format CALL-A (R157). -/
  | callA (addr20 : Addr)
  /-- `CALL [SR]`, format CALL-R (R158). -/
  | callR (sr : Reg)
  /-- `CALL [SR1+SR2]`, format CALL-X (R159). -/
  | callX (sr1 sr2 : Reg)
  /-- `SCL imm6`, format SCL (R160). -/
  | scl (imm6 : BitVec 6)
  /-- `RET`, format RET (R162). -/
  | ret
  /-- `RETI  (also written RETS)`, format RET (R163). -/
  | reti
  /-- `LDB DR, addr20`, format LD-A (R171). -/
  | ldbA (dr : Reg) (addr20 : Addr)
  /-- `LDB DR, [SR]`, format LD-R (R172). -/
  | ldbR (dr sr : Reg)
  /-- `LDB DR, [SR1+SR2]`, format LD-X (R173). -/
  | ldbX (dr sr1 sr2 : Reg)
  /-- `LDS DR, addr20`, format LD-A (R174). -/
  | ldsA (dr : Reg) (addr20 : Addr)
  /-- `LDS DR, [SR]`, format LD-R (R175). -/
  | ldsR (dr sr : Reg)
  /-- `LDS DR, [SR1+SR2]`, format LD-X (R176). -/
  | ldsX (dr sr1 sr2 : Reg)
  /-- `LDW DR, addr20`, format LD-A (R177). -/
  | ldwA (dr : Reg) (addr20 : Addr)
  /-- `LDW DR, [SR]`, format LD-R (R178). -/
  | ldwR (dr sr : Reg)
  /-- `LDW DR, [SR1+SR2]`, format LD-X (R179). -/
  | ldwX (dr sr1 sr2 : Reg)
  /-- `STB addr20, SR`, format ST-A (R181). -/
  | stbA (addr20 : Addr) (sr : Reg)
  /-- `STB [DR], SR`, format ST-R (R182). -/
  | stbR (dr sr : Reg)
  /-- `STB [DR1+DR2], SR`, format ST-X (R183). -/
  | stbX (dr1 dr2 sr : Reg)
  /-- `STS addr20, SR`, format ST-A (R184). -/
  | stsA (addr20 : Addr) (sr : Reg)
  /-- `STS [DR], SR`, format ST-R (R185). -/
  | stsR (dr sr : Reg)
  /-- `STS [DR1+DR2], SR`, format ST-X (R186). -/
  | stsX (dr1 dr2 sr : Reg)
  /-- `STW addr20, SR`, format ST-A (R187). -/
  | stwA (addr20 : Addr) (sr : Reg)
  /-- `STW [DR], SR`, format ST-R (R188). -/
  | stwR (dr sr : Reg)
  /-- `STW [DR1+DR2], SR`, format ST-X (R189). -/
  | stwX (dr1 dr2 sr : Reg)
  /-- `CPY DR, SR`, format CPY-R (R200). -/
  | cpy (dr sr : Reg)
  /-- `CPYI DR, imm16`, format CPY-I (R201). -/
  | cpyi (dr : Reg) (imm16 : BitVec 16)
  /-- `CPYU DR, imm16`, format CPY-I (R202). -/
  | cpyu (dr : Reg) (imm16 : BitVec 16)
  /-- `PUSHI imm16`, format PUSH-I (R204). -/
  | pushi (imm16 : BitVec 16)
  /-- `PUSHU imm16`, format PUSH-I (R205). -/
  | pushu (imm16 : BitVec 16)
  /-- `PUSHB SR`, format PUSH-R (R206). -/
  | pushb (sr : Reg)
  /-- `PUSHS SR`, format PUSH-R (R207). -/
  | pushs (sr : Reg)
  /-- `PUSHW SR`, format PUSH-R (R208). -/
  | pushw (sr : Reg)
  /-- `POPB DR`, format POP (R210). -/
  | popb (dr : Reg)
  /-- `POPS DR`, format POP (R211). -/
  | pops (dr : Reg)
  /-- `POPW DR`, format POP (R212). -/
  | popw (dr : Reg)
  /-- `IN DR, SR`, format IN-R (R221). -/
  | inR (dr sr : Reg)
  /-- `IN DR, imm8`, format IN-I (R222). -/
  | inI (dr : Reg) (imm8 : BitVec 8)
  /-- `OUT DR, SR`, format OUT-R (R223). -/
  | outR (dr sr : Reg)
  /-- `OUT imm8, SR`, format OUT-I (R224). -/
  | outI (imm8 : BitVec 8) (sr : Reg)
  /-- `SSSP addr20`, format SSSP-A (R226). -/
  | ssspA (addr20 : Addr)
  /-- `SSSP SR`, format SSSP-R (R227). -/
  | ssspR (sr : Reg)
  /-- `HALT`, format HALT (R229). -/
  | halt
deriving DecidableEq, Repr

end Sys2Proof
end

