-- ==== Sys2Proof/WellFormed.lean ====
section
/-! DEFINITION. WellFormed.lean: which terms of `Instr` are instructions. Every operand is a bit vector of its field's
width and every value of a field is valid (30_encoding.md R95, R96), so one check is left: the word of JC with
n = p = z = 1 is JMP (R102; 90_conflicts.md C10), so that JC term stands for no word of its own. -/

namespace Sys2Proof

/-- The condition bits of a JC row: every combination but n = p = z = 1, which is the JMP row (R102). -/
def condOk (n p z : Bool) : Bool := !(n && p && z)

/-- The instruction is one some word decodes to. -/
def Instr.wellFormed : Instr → Bool
  | .addR _ _ _ => true
  | .addI _ _ _ => true
  | .subR _ _ _ => true
  | .subI _ _ _ => true
  | .mulbi _ _ _ => true
  | .mulsi _ _ _ => true
  | .mulwi _ _ _ => true
  | .mulbu _ _ _ => true
  | .mulsu _ _ _ => true
  | .mulwu _ _ _ => true
  | .neg _ _ => true
  | .cmpR _ _ => true
  | .cmpI _ _ => true
  | .andR _ _ _ => true
  | .andI _ _ _ => true
  | .orR _ _ _ => true
  | .orI _ _ _ => true
  | .not _ _ => true
  | .xorR _ _ _ => true
  | .xorI _ _ _ => true
  | .shflR _ _ _ => true
  | .shflI _ _ _ => true
  | .shfrzR _ _ _ => true
  | .shfrzI _ _ _ => true
  | .shfraR _ _ _ => true
  | .shfraI _ _ _ => true
  | .jcA n p z _ => condOk n p z
  | .jcR n p z _ => condOk n p z
  | .jcX n p z _ _ => condOk n p z
  | .jmpA _ => true
  | .jmpR _ => true
  | .jmpX _ _ => true
  | .callA _ => true
  | .callR _ => true
  | .callX _ _ => true
  | .scl _ => true
  | .ret => true
  | .reti => true
  | .ldbA _ _ => true
  | .ldbR _ _ => true
  | .ldbX _ _ _ => true
  | .ldsA _ _ => true
  | .ldsR _ _ => true
  | .ldsX _ _ _ => true
  | .ldwA _ _ => true
  | .ldwR _ _ => true
  | .ldwX _ _ _ => true
  | .stbA _ _ => true
  | .stbR _ _ => true
  | .stbX _ _ _ => true
  | .stsA _ _ => true
  | .stsR _ _ => true
  | .stsX _ _ _ => true
  | .stwA _ _ => true
  | .stwR _ _ => true
  | .stwX _ _ _ => true
  | .cpy _ _ => true
  | .cpyi _ _ => true
  | .cpyu _ _ => true
  | .pushi _ => true
  | .pushu _ => true
  | .pushb _ => true
  | .pushs _ => true
  | .pushw _ => true
  | .popb _ => true
  | .pops _ => true
  | .popw _ => true
  | .inR _ _ => true
  | .inI _ _ => true
  | .outR _ _ => true
  | .outI _ _ => true
  | .ssspA _ => true
  | .ssspR _ => true
  | .halt => true

/-- The well-formedness of an instruction, as a decidable proposition. -/
abbrev Instr.WellFormed (i : Instr) : Prop := i.wellFormed = true

end Sys2Proof
end

