-- ==== Sys2Proof/Decode.lean ====
section
/-! DEFINITION. Decode.lean: the decoder, total on any word and any bytes, rejecting by name (30_encoding.md R80, R97,
R99 to R102), then the encoder, written from the format tables R82 to R94. -/

namespace Sys2Proof

/-- Why bytes are no instruction. The machine raises `IllegalInstruction` for each of the last three
(60_exceptions.md R246); fewer than four bytes never come from a fetch. -/
inductive Reject where
  /-- Fewer than the four bytes of a word (R80). -/
  | tooShort
  /-- One of the eight major opcodes R97 assigns to nothing (R99). -/
  | unassignedOpcode
  /-- A selector value R97 marks "not assigned" (R99). -/
  | unassignedSelector
  /-- A Reserved field that is not zero (R100). -/
  | reservedNotZero
deriving DecidableEq, Repr

/-- The `n`-bit field of a word whose lowest bit is bit `lo` (00_scope.md R8). -/
def field (w : Word) (lo n : Nat) : BitVec n := w.extractLsb' lo n

/-- One bit of a word. -/
def bit (w : Word) (i : Nat) : Bool := w.getLsbD i

/-- The instruction, if the row's Reserved bits are all zero (R100). -/
def whenZero {n : Nat} (reserved : BitVec n) (i : Instr) : Except Reject Instr :=
  if reserved = 0#n then .ok i else .error .reservedNotZero

/-- Formats ALU-R and ALU-I (R82). -/
def decodeAlu (r : Reg → Reg → Reg → Instr) (i : Reg → Reg → BitVec 16 → Instr) (w : Word) : Except Reject Instr :=
  if bit w 16 then .ok (i (field w 22 5) (field w 17 5) (field w 0 16))
  else whenZero (field w 5 11) (r (field w 22 5) (field w 17 5) (field w 0 5))

/-- Formats CMP-R and CMP-I (R82); bits 15:5 of CMP-R are taken as Reserved, assumption log 28. -/
def decodeCmp (w : Word) : Except Reject Instr :=
  if bit w 16 then whenZero (field w 22 5) (.cmpI (field w 17 5) (field w 0 16))
  else whenZero (field w 22 5 ++ field w 5 11) (.cmpR (field w 17 5) (field w 0 5))

/-- Format MUL (R83): bit 26 and the size at 25:24 select the row. -/
def decodeMul (w : Word) : Except Reject Instr :=
  let put (row : Reg → Reg → Reg → Instr) : Except Reject Instr :=
    whenZero (field w 15 9) (row (field w 10 5) (field w 5 5) (field w 0 5))
  match field w 24 3 with
  | 0b001#3 => put .mulbi
  | 0b010#3 => put .mulsi
  | 0b011#3 => put .mulwi
  | 0b101#3 => put .mulbu
  | 0b110#3 => put .mulsu
  | 0b111#3 => put .mulwu
  | _ => .error .unassignedSelector

/-- Format UN (R84). -/
def decodeUnary (row : Reg → Reg → Instr) (w : Word) : Except Reject Instr :=
  whenZero (field w 10 17) (row (field w 5 5) (field w 0 5))

/-- Formats SHF-R and SHF-I (R85): the kind at 26:25, then bit 5. -/
def decodeShift (w : Word) : Except Reject Instr :=
  let put (r : Reg → Reg → Reg → Instr) (i : Reg → Reg → BitVec 5 → Instr) : Except Reject Instr :=
    whenZero (field w 16 9)
      (if bit w 5 then i (field w 11 5) (field w 6 5) (field w 0 5)
       else r (field w 11 5) (field w 6 5) (field w 0 5))
  match field w 25 2 with
  | 0b00#2 => put .shflR .shflI
  | 0b10#2 => put .shfrzR .shfrzI
  | 0b11#2 => put .shfraR .shfraI
  | _ => .error .unassignedSelector

/-- Formats J-A, J-R and J-X (R86): bits 26:24 all set is JMP, anything else JC (R102). -/
def decodeJump (w : Word) : Except Reject Instr :=
  let n := bit w 26
  let p := bit w 25
  let z := bit w 24
  match field w 20 2 with
  | 0b00#2 =>
    whenZero (field w 22 2) (if n && p && z then .jmpA (field w 0 20) else .jcA n p z (field w 0 20))
  | 0b01#2 =>
    whenZero (field w 22 2 ++ field w 5 15) (if n && p && z then .jmpR (field w 0 5) else .jcR n p z (field w 0 5))
  | 0b10#2 =>
    whenZero (field w 22 2 ++ field w 10 10)
      (if n && p && z then .jmpX (field w 5 5) (field w 0 5) else .jcX n p z (field w 5 5) (field w 0 5))
  | _ => .error .unassignedSelector

/-- Formats CALL-A, CALL-R, CALL-X and SCL (R87): bit 26, then for CALL the mode at 21:20. -/
def decodeCall (w : Word) : Except Reject Instr :=
  if bit w 26 then whenZero (field w 6 20) (.scl (field w 0 6))
  else match field w 20 2 with
    | 0b00#2 => whenZero (field w 22 4) (.callA (field w 0 20))
    | 0b01#2 => whenZero (field w 22 4 ++ field w 5 15) (.callR (field w 0 5))
    | 0b10#2 => whenZero (field w 22 4 ++ field w 10 10) (.callX (field w 5 5) (field w 0 5))
    | _ => .error .unassignedSelector

/-- Format RET (R88): bit 26 tells RETI (also written RETS) from RET. -/
def decodeRet (w : Word) : Except Reject Instr :=
  whenZero (field w 0 26) (if bit w 26 then .reti else .ret)

/-- Formats LD-A, LD-R and LD-X (R89): the mode at 21:20. -/
def decodeLoad (a : Reg → Addr → Instr) (r : Reg → Reg → Instr) (x : Reg → Reg → Reg → Instr) (w : Word) :
    Except Reject Instr :=
  match field w 20 2 with
  | 0b00#2 => .ok (a (field w 22 5) (field w 0 20))
  | 0b01#2 => whenZero (field w 5 15) (r (field w 22 5) (field w 0 5))
  | 0b10#2 => whenZero (field w 10 10) (x (field w 22 5) (field w 5 5) (field w 0 5))
  | _ => .error .unassignedSelector

/-- Formats ST-A, ST-R and ST-X (R90): the mode at 26:25 and the source register at 4:0. -/
def decodeStore (a : Addr → Reg → Instr) (r : Reg → Reg → Instr) (x : Reg → Reg → Reg → Instr) (w : Word) :
    Except Reject Instr :=
  match field w 25 2 with
  | 0b00#2 => .ok (a (field w 5 20) (field w 0 5))
  | 0b01#2 => whenZero (field w 10 15) (r (field w 5 5) (field w 0 5))
  | 0b10#2 => whenZero (field w 15 10) (x (field w 10 5) (field w 5 5) (field w 0 5))
  | _ => .error .unassignedSelector

/-- Formats CPY-R and CPY-I (R91): the selector at 17:16; the place of DR is assumption log 17. -/
def decodeCopy (w : Word) : Except Reject Instr :=
  match field w 16 2 with
  | 0b00#2 => whenZero (field w 23 4 ++ field w 5 11) (.cpy (field w 18 5) (field w 0 5))
  | 0b10#2 => whenZero (field w 23 4) (.cpyi (field w 18 5) (field w 0 16))
  | 0b11#2 => whenZero (field w 23 4) (.cpyu (field w 18 5) (field w 0 16))
  | _ => .error .unassignedSelector

/-- Formats PUSH-I, PUSH-R and POP (R92): bit 26 and the size at 25:24, then bit 16 of an immediate push. -/
def decodeStack (w : Word) : Except Reject Instr :=
  match field w 24 3 with
  | 0b000#3 => whenZero (field w 17 7) (if bit w 16 then .pushu (field w 0 16) else .pushi (field w 0 16))
  | 0b001#3 => whenZero (field w 5 19) (.pushb (field w 0 5))
  | 0b010#3 => whenZero (field w 5 19) (.pushs (field w 0 5))
  | 0b011#3 => whenZero (field w 5 19) (.pushw (field w 0 5))
  | 0b101#3 => whenZero (field w 5 19) (.popb (field w 0 5))
  | 0b110#3 => whenZero (field w 5 19) (.pops (field w 0 5))
  | 0b111#3 => whenZero (field w 5 19) (.popw (field w 0 5))
  | _ => .error .unassignedSelector

/-- Formats IN-R, IN-I, OUT-R and OUT-I (R93): bit 26, then bit 8 of IN or bit 13 of OUT. -/
def decodeIo (w : Word) : Except Reject Instr :=
  if bit w 26 then
    if bit w 13 then whenZero (field w 14 12) (.outI (field w 5 8) (field w 0 5))
    else whenZero (field w 14 12 ++ field w 10 3) (.outR (field w 5 5) (field w 0 5))
  else
    if bit w 8 then whenZero (field w 14 12) (.inI (field w 9 5) (field w 0 8))
    else whenZero (field w 14 12 ++ field w 5 3) (.inR (field w 9 5) (field w 0 5))

/-- Formats SSSP-A and SSSP-R (R94): bit 20. -/
def decodeSssp (w : Word) : Except Reject Instr :=
  if bit w 20 then whenZero (field w 21 6 ++ field w 5 15) (.ssspR (field w 0 5))
  else whenZero (field w 21 6) (.ssspA (field w 0 20))

/-- The instruction a word is, by its major opcode (the opcode map R97). -/
def decodeWord (w : Word) : Except Reject Instr :=
  match field w 27 5 with
  | 0b00000#5 => decodeAlu .subR .subI w
  | 0b00010#5 => decodeCopy w
  | 0b00011#5 => decodeRet w
  | 0b00100#5 => decodeAlu .addR .addI w
  | 0b00101#5 => decodeAlu .andR .andI w
  | 0b00110#5 => decodeSssp w
  | 0b01000#5 => decodeCall w
  | 0b01001#5 => decodeLoad .ldbA .ldbR .ldbX w
  | 0b01010#5 => decodeLoad .ldsA .ldsR .ldsX w
  | 0b01011#5 => decodeLoad .ldwA .ldwR .ldwX w
  | 0b01101#5 => decodeAlu .orR .orI w
  | 0b01110#5 => decodeIo w
  | 0b01111#5 => decodeMul w
  | 0b10000#5 => decodeShift w
  | 0b10001#5 => whenZero (field w 0 27) .halt
  | 0b10101#5 => decodeAlu .xorR .xorI w
  | 0b10110#5 => decodeUnary .not w
  | 0b10111#5 => decodeJump w
  | 0b11000#5 => decodeUnary .neg w
  | 0b11011#5 => decodeCmp w
  | 0b11100#5 => decodeStore .stbA .stbR .stbX w
  | 0b11101#5 => decodeStore .stsA .stsR .stsX w
  | 0b11110#5 => decodeStore .stwA .stwR .stwX w
  | 0b11111#5 => decodeStack w
  | _ => .error .unassignedOpcode

/-- A word from its four bytes in memory order, the least significant byte first (20_memory.md R51, R52). -/
def wordOfBytes (b0 b1 b2 b3 : Byte) : Word := b3 ++ b2 ++ b1 ++ b0

/-- The four bytes of a word in memory order (R51). -/
def bytesOfWord (w : Word) : List Byte := [field w 0 8, field w 8 8, field w 16 8, field w 24 8]

/-- The instruction at the front of a byte sequence, with the bytes after it (R52, R80). -/
def decode : List Byte → Except Reject (Instr × List Byte)
  | b0 :: b1 :: b2 :: b3 :: rest =>
    match decodeWord (wordOfBytes b0 b1 b2 b3) with
    | .ok i => .ok (i, rest)
    | .error r => .error r
  | _ => .error .tooShort

/-- The word of `nbits` bits of a row of spec/opcode_table.json; every bit above them is zero. -/
def tableWord (nbits w : Nat) : Word := BitVec.ofNat 32 (w % 2 ^ nbits)

/-- What the decoder reads from the instruction whose bits are `w`, laid out as the hardware stores it. -/
def decodeTableWord (nbits w : Nat) : Option Instr :=
  match decode (bytesOfWord (tableWord nbits w)) with
  | .ok (i, _) => some i
  | .error _ => none

/-- The bits of a format as one word; it takes nothing but exactly 32 bits. -/
def pack {n : Nat} (x : BitVec n) (h : n = 32 := by decide) : Word := x.cast h

/-- The word of an instruction: the fields of its format from bit 31 down, Reserved fields zero (R82 to R94). -/
def encode : Instr → Word
  | .addR dr sr1 sr2 => pack (0b00100#5 ++ dr ++ sr1 ++ 0b0#1 ++ 0#11 ++ sr2)
  | .addI dr sr1 imm16 => pack (0b00100#5 ++ dr ++ sr1 ++ 0b1#1 ++ imm16)
  | .subR dr sr1 sr2 => pack (0b00000#5 ++ dr ++ sr1 ++ 0b0#1 ++ 0#11 ++ sr2)
  | .subI dr sr1 imm16 => pack (0b00000#5 ++ dr ++ sr1 ++ 0b1#1 ++ imm16)
  | .mulbi dr sr1 sr2 => pack (0b01111#5 ++ 0b001#3 ++ 0#9 ++ dr ++ sr1 ++ sr2)
  | .mulsi dr sr1 sr2 => pack (0b01111#5 ++ 0b010#3 ++ 0#9 ++ dr ++ sr1 ++ sr2)
  | .mulwi dr sr1 sr2 => pack (0b01111#5 ++ 0b011#3 ++ 0#9 ++ dr ++ sr1 ++ sr2)
  | .mulbu dr sr1 sr2 => pack (0b01111#5 ++ 0b101#3 ++ 0#9 ++ dr ++ sr1 ++ sr2)
  | .mulsu dr sr1 sr2 => pack (0b01111#5 ++ 0b110#3 ++ 0#9 ++ dr ++ sr1 ++ sr2)
  | .mulwu dr sr1 sr2 => pack (0b01111#5 ++ 0b111#3 ++ 0#9 ++ dr ++ sr1 ++ sr2)
  | .neg dr sr => pack (0b11000#5 ++ 0#17 ++ dr ++ sr)
  | .cmpR sr1 sr2 => pack (0b11011#5 ++ 0#5 ++ sr1 ++ 0b0#1 ++ 0#11 ++ sr2)
  | .cmpI sr1 imm16 => pack (0b11011#5 ++ 0#5 ++ sr1 ++ 0b1#1 ++ imm16)
  | .andR dr sr1 sr2 => pack (0b00101#5 ++ dr ++ sr1 ++ 0b0#1 ++ 0#11 ++ sr2)
  | .andI dr sr1 imm16 => pack (0b00101#5 ++ dr ++ sr1 ++ 0b1#1 ++ imm16)
  | .orR dr sr1 sr2 => pack (0b01101#5 ++ dr ++ sr1 ++ 0b0#1 ++ 0#11 ++ sr2)
  | .orI dr sr1 imm16 => pack (0b01101#5 ++ dr ++ sr1 ++ 0b1#1 ++ imm16)
  | .not dr sr => pack (0b10110#5 ++ 0#17 ++ dr ++ sr)
  | .xorR dr sr1 sr2 => pack (0b10101#5 ++ dr ++ sr1 ++ 0b0#1 ++ 0#11 ++ sr2)
  | .xorI dr sr1 imm16 => pack (0b10101#5 ++ dr ++ sr1 ++ 0b1#1 ++ imm16)
  | .shflR dr sr1 sr2 => pack (0b10000#5 ++ 0b00#2 ++ 0#9 ++ dr ++ sr1 ++ 0b0#1 ++ sr2)
  | .shflI dr sr imm5 => pack (0b10000#5 ++ 0b00#2 ++ 0#9 ++ dr ++ sr ++ 0b1#1 ++ imm5)
  | .shfrzR dr sr1 sr2 => pack (0b10000#5 ++ 0b10#2 ++ 0#9 ++ dr ++ sr1 ++ 0b0#1 ++ sr2)
  | .shfrzI dr sr imm5 => pack (0b10000#5 ++ 0b10#2 ++ 0#9 ++ dr ++ sr ++ 0b1#1 ++ imm5)
  | .shfraR dr sr1 sr2 => pack (0b10000#5 ++ 0b11#2 ++ 0#9 ++ dr ++ sr1 ++ 0b0#1 ++ sr2)
  | .shfraI dr sr imm5 => pack (0b10000#5 ++ 0b11#2 ++ 0#9 ++ dr ++ sr ++ 0b1#1 ++ imm5)
  | .jcA n p z addr20 => pack (0b10111#5 ++ BitVec.ofBool n ++ BitVec.ofBool p ++ BitVec.ofBool z ++ 0#2 ++ 0b00#2 ++ addr20)
  | .jcR n p z sr => pack (0b10111#5 ++ BitVec.ofBool n ++ BitVec.ofBool p ++ BitVec.ofBool z ++ 0#2 ++ 0b01#2 ++ 0#15 ++ sr)
  | .jcX n p z sr1 sr2 => pack (0b10111#5 ++ BitVec.ofBool n ++ BitVec.ofBool p ++ BitVec.ofBool z ++ 0#2 ++ 0b10#2 ++ 0#10 ++ sr1 ++ sr2)
  | .jmpA addr20 => pack (0b10111#5 ++ 0b111#3 ++ 0#2 ++ 0b00#2 ++ addr20)
  | .jmpR sr => pack (0b10111#5 ++ 0b111#3 ++ 0#2 ++ 0b01#2 ++ 0#15 ++ sr)
  | .jmpX sr1 sr2 => pack (0b10111#5 ++ 0b111#3 ++ 0#2 ++ 0b10#2 ++ 0#10 ++ sr1 ++ sr2)
  | .callA addr20 => pack (0b01000#5 ++ 0b0#1 ++ 0#4 ++ 0b00#2 ++ addr20)
  | .callR sr => pack (0b01000#5 ++ 0b0#1 ++ 0#4 ++ 0b01#2 ++ 0#15 ++ sr)
  | .callX sr1 sr2 => pack (0b01000#5 ++ 0b0#1 ++ 0#4 ++ 0b10#2 ++ 0#10 ++ sr1 ++ sr2)
  | .scl imm6 => pack (0b01000#5 ++ 0b1#1 ++ 0#20 ++ imm6)
  | .ret => pack (0b00011#5 ++ 0b0#1 ++ 0#26)
  | .reti => pack (0b00011#5 ++ 0b1#1 ++ 0#26)
  | .ldbA dr addr20 => pack (0b01001#5 ++ dr ++ 0b00#2 ++ addr20)
  | .ldbR dr sr => pack (0b01001#5 ++ dr ++ 0b01#2 ++ 0#15 ++ sr)
  | .ldbX dr sr1 sr2 => pack (0b01001#5 ++ dr ++ 0b10#2 ++ 0#10 ++ sr1 ++ sr2)
  | .ldsA dr addr20 => pack (0b01010#5 ++ dr ++ 0b00#2 ++ addr20)
  | .ldsR dr sr => pack (0b01010#5 ++ dr ++ 0b01#2 ++ 0#15 ++ sr)
  | .ldsX dr sr1 sr2 => pack (0b01010#5 ++ dr ++ 0b10#2 ++ 0#10 ++ sr1 ++ sr2)
  | .ldwA dr addr20 => pack (0b01011#5 ++ dr ++ 0b00#2 ++ addr20)
  | .ldwR dr sr => pack (0b01011#5 ++ dr ++ 0b01#2 ++ 0#15 ++ sr)
  | .ldwX dr sr1 sr2 => pack (0b01011#5 ++ dr ++ 0b10#2 ++ 0#10 ++ sr1 ++ sr2)
  | .stbA addr20 sr => pack (0b11100#5 ++ 0b00#2 ++ addr20 ++ sr)
  | .stbR dr sr => pack (0b11100#5 ++ 0b01#2 ++ 0#15 ++ dr ++ sr)
  | .stbX dr1 dr2 sr => pack (0b11100#5 ++ 0b10#2 ++ 0#10 ++ dr1 ++ dr2 ++ sr)
  | .stsA addr20 sr => pack (0b11101#5 ++ 0b00#2 ++ addr20 ++ sr)
  | .stsR dr sr => pack (0b11101#5 ++ 0b01#2 ++ 0#15 ++ dr ++ sr)
  | .stsX dr1 dr2 sr => pack (0b11101#5 ++ 0b10#2 ++ 0#10 ++ dr1 ++ dr2 ++ sr)
  | .stwA addr20 sr => pack (0b11110#5 ++ 0b00#2 ++ addr20 ++ sr)
  | .stwR dr sr => pack (0b11110#5 ++ 0b01#2 ++ 0#15 ++ dr ++ sr)
  | .stwX dr1 dr2 sr => pack (0b11110#5 ++ 0b10#2 ++ 0#10 ++ dr1 ++ dr2 ++ sr)
  | .cpy dr sr => pack (0b00010#5 ++ 0#4 ++ dr ++ 0b00#2 ++ 0#11 ++ sr)
  | .cpyi dr imm16 => pack (0b00010#5 ++ 0#4 ++ dr ++ 0b10#2 ++ imm16)
  | .cpyu dr imm16 => pack (0b00010#5 ++ 0#4 ++ dr ++ 0b11#2 ++ imm16)
  | .pushi imm16 => pack (0b11111#5 ++ 0b000#3 ++ 0#7 ++ 0b0#1 ++ imm16)
  | .pushu imm16 => pack (0b11111#5 ++ 0b000#3 ++ 0#7 ++ 0b1#1 ++ imm16)
  | .pushb sr => pack (0b11111#5 ++ 0b001#3 ++ 0#19 ++ sr)
  | .pushs sr => pack (0b11111#5 ++ 0b010#3 ++ 0#19 ++ sr)
  | .pushw sr => pack (0b11111#5 ++ 0b011#3 ++ 0#19 ++ sr)
  | .popb dr => pack (0b11111#5 ++ 0b101#3 ++ 0#19 ++ dr)
  | .pops dr => pack (0b11111#5 ++ 0b110#3 ++ 0#19 ++ dr)
  | .popw dr => pack (0b11111#5 ++ 0b111#3 ++ 0#19 ++ dr)
  | .inR dr sr => pack (0b01110#5 ++ 0b0#1 ++ 0#12 ++ dr ++ 0b0#1 ++ 0#3 ++ sr)
  | .inI dr imm8 => pack (0b01110#5 ++ 0b0#1 ++ 0#12 ++ dr ++ 0b1#1 ++ imm8)
  | .outR dr sr => pack (0b01110#5 ++ 0b1#1 ++ 0#12 ++ 0b0#1 ++ 0#3 ++ dr ++ sr)
  | .outI imm8 sr => pack (0b01110#5 ++ 0b1#1 ++ 0#12 ++ 0b1#1 ++ imm8 ++ sr)
  | .ssspA addr20 => pack (0b00110#5 ++ 0#6 ++ 0b0#1 ++ addr20)
  | .ssspR sr => pack (0b00110#5 ++ 0#6 ++ 0b1#1 ++ 0#15 ++ sr)
  | .halt => pack (0b10001#5 ++ 0#27)

/-- The bytes of an instruction as memory holds them (R52). -/
def encodeBytes (i : Instr) : List Byte := bytesOfWord (encode i)

end Sys2Proof
end

