-- ==== Sys2Proof/Config.lean ====
section
/-! DEFINITION. Config.lean: what the spec leaves open, as constants with NO body (70_reset_and_hazards.md R303):
nothing in Lean can evaluate one or prove a value of it, so a claim holds whatever they are. -/

namespace Sys2Proof

/-- A date and time the clock device can show: every field is in PIXIE's range by its type (60_exceptions.md R272,
R273). `day` and `month` count from 0 here and from 1 in the date word. -/
structure Clock where
  day    : Fin 31
  month  : Fin 12
  year   : BitVec 16
  hour   : Fin 24
  minute : Fin 60
  second : Fin 60
deriving DecidableEq, Repr, Inhabited

namespace Config

/-- INITIAL_MEMORY (R6, R292; D29): what a byte of 0x00200 to 0xfffff that nothing has written reads as. The same
value at each read until a store (20_memory.md R59, R66). Assumption log 4. -/
opaque initialByte : Addr → Byte

/-- The environment's draws of whole or partial port words (R275, R276, R278, R279; D17), applied to the counter
`draws` of the state, so that each read is a fresh draw. Assumption log 6. -/
opaque drawWord : Nat → Word

/-- CLOCK (R6, R271; D25): the date and time shown at a read of port 4 or 5, a fresh draw at each read.
Assumption log 7. -/
opaque clockNow : Nat → Clock

/-- INT_ORDER (R6, R251; D13): which member of `pending` is checked when there are several, as a position taken
modulo their number. Assumption log 8. -/
opaque interruptChoice : Nat → Nat

end Config
end Sys2Proof
end

