-- ==== Sys2Proof/Machine/State.lean ====
section
/-! DEFINITION. Machine/State.lean: the whole state of a Pixie machine as plain data (10_state.md R20), its value at
reset (R42, R43), and the reasons a step can stop. -/

namespace Sys2Proof.Machine

/-- The errors of 60_exceptions.md R240, each with the information R242 to R246 give it. They are the values of the
state component `fault` (10_state.md R20), not reasons the model stops. -/
inductive MachineError where
  /-- An address that must be a multiple of `n` is not (R242). -/
  | alignmentError (addr : Addr) (n : Nat)
  /-- A user-mode access below 0x08000 (R243). -/
  | protectionError (addr : Addr)
  /-- A privileged instruction in user mode (R244). -/
  | privilegeViolation
  /-- SCL through a table entry whose enable bit is 0 (R245). -/
  | sctDisabled (vector : BitVec 6)
  /-- A word that is no instruction (R246). -/
  | illegalInstruction (word : Word)
deriving DecidableEq, Repr

/-- Why the machine takes no step: the two terminal states of 70_reset_and_hazards.md R301, once no event of the
environment is to come. -/
inductive Fault where
  /-- The machine is Faulted (R241): an error was raised at an earlier step and is recorded in `fault`. Raised by
  `step` alone, when the state's `fault` is not none and `arrivals` is empty. Safe: the spec says no step is taken. -/
  | faulted (e : MachineError)
  /-- The machine is halted (R40, 45_system_io.md R229). Raised by `step` alone, when `halted` is set, `fault` is
  none and `arrivals` is empty. Safe as the spec stands (D19: halted is terminal); it would be unsafe for a Pixie that
  leaves the halted state. -/
  | halted
deriving DecidableEq, Repr

/-- Why the model has no answer. -/
inductive Refusal where
  /-- An instruction without a meaning, named by its mnemonic. Raised by an arm of `exec` alone; no arm of this model
  raises it. Safe: nothing is claimed of such an instruction. -/
  | notModelled (mnemonic : String)
deriving DecidableEq, Repr

/-- Memory as a partial map from addresses to bytes, sorted by address: an address not listed reads as
`Memory.unlisted` says. `Memory.wf` is its one canonical form. -/
abbrev Memory := List Host.Cell

/-- The complete state (R20). The last two fields are the model's own: they hold what the environment supplies. -/
structure State where
  /-- The general registers R0 to R31 (R21). -/
  regs : Vector (BitVec 32) 32
  /-- The program counter (R25). -/
  pc : BitVec 20
  /-- The machine status register (R29). -/
  ms : BitVec 32
  /-- The supervisor stack pointer register (R36). -/
  ssp : BitVec 20
  /-- Memory, 2^20 bytes (R37). -/
  mem : Memory
  /-- The interrupt vectors raised and not yet checked, as a set: strictly rising (R39). -/
  pending : List (Fin 64)
  /-- The halted state (R40). -/
  halted : Bool
  /-- The error that made the machine Faulted, if any (60_exceptions.md R241). -/
  fault : Option MachineError
  /-- The byte input device's queue, oldest byte first (R41). -/
  inQueue : List (BitVec 8)
  /-- The bytes the byte output device has put out, oldest first (R41). -/
  output : List (BitVec 8)
  /-- The date and time the clock showed last (R41). -/
  clock : Clock
  /-- The model's own: how many free values have been drawn (70_reset_and_hazards.md R303). -/
  draws : Nat
  /-- The model's own: the environment's `Arrive` events to come, one entry for each step boundary, the empty entry
  for no event (60_exceptions.md R277). -/
  arrivals : List (List (BitVec 8))
deriving DecidableEq, Repr

/-- The outcome of a meaning or a step. -/
abbrev Result := Host.Outcome State Fault Refusal

/-- The machine right after start-up (10_state.md R42, R43). The spec gives every value but three: `clock`, `draws`
and `arrivals` (assumption log 7, 6 and 9). -/
def State.reset : State where
  regs := Vector.replicate 32 0#32
  pc := 0x00200#20
  ms := 0x00010001#32
  ssp := 0x00000#20
  mem := []
  pending := []
  halted := false
  fault := none
  inQueue := []
  output := []
  clock := { day := 0, month := 0, year := 0#16, hour := 0, minute := 0, second := 0 }
  draws := 0
  arrivals := []

end Sys2Proof.Machine
end

