-- ==== Sys2Proof/Machine/Flags.lean ====
section
/-! DEFINITION. Machine/Flags.lean: the fields of the machine status register and the flag computation
(10_state.md R29 to R34), as functions of its 32 bits. -/

namespace Sys2Proof.Machine

/-- ZF, bit 0 (R29). -/
def zeroFlag (ms : Word) : Bool := ms.getLsbD 0

/-- PF, bit 1 (R29). -/
def positiveFlag (ms : Word) : Bool := ms.getLsbD 1

/-- NF, bit 2 (R29). -/
def negativeFlag (ms : Word) : Bool := ms.getLsbD 2

/-- MI, bit 16: set in supervisor mode (R29, R33). -/
def modeIndicator (ms : Word) : Bool := ms.getLsbD 16

/-- A value of `n` bits is zero. -/
def isZero {n : Nat} (x : BitVec n) : Bool := x == 0#n

/-- A value of `n` bits read as two's complement is below zero: its top bit (R31). -/
def isNegative {n : Nat} (x : BitVec n) : Bool := x.msb

/-- A value of `n` bits read as two's complement is above zero (R31). -/
def isPositive {n : Nat} (x : BitVec n) : Bool := !isZero x && !isNegative x

/-- `SetFlags_n(x)`: the machine status register with ZF, PF and NF describing `x`, bits 31:3 as they were (R31;
assumption log 14). -/
def withFlagsOf {n : Nat} (x : BitVec n) (ms : Word) : Word :=
  ms.extractLsb' 3 29 ++ BitVec.ofBool (isNegative x) ++ BitVec.ofBool (isPositive x) ++ BitVec.ofBool (isZero x)

/-- `MI <- 1`: bit 16 set, every other bit as it was (R11, R33). -/
def withSupervisor (ms : Word) : Word := ms ||| 0x00010000#32

/-- JC's condition on the flags as they are (42_control.md R150). -/
def conditionHolds (n p z : Bool) (ms : Word) : Bool :=
  (n && negativeFlag ms) || (p && positiveFlag ms) || (z && zeroFlag ms)

end Sys2Proof.Machine
end

