-- ==== Sys2Proof/Machine/Ops.lean ====
section
/-! DEFINITION. Machine/Ops.lean: the named operations over memory, registers, ports and modes that every meaning is
built from, entering and leaving supervisor mode among them. Each follows one rule of the spec and says which. -/

namespace Sys2Proof.Machine

/-! ## Memory as data -/

/-- What an address that memory does not list holds: 0x00 in the IVT and the SCT, no value above them (10_state.md
R42, R43; assumption log 4). -/
def Memory.unlisted (a : Nat) : Option Byte := if a < 0x200 then some 0x00#8 else none

/-- The canonical form of memory: addresses of the 20-bit space, strictly rising, none listed with what an unlisted
address holds. Assumption log 5. -/
def Memory.wf : Memory → Bool
  | [] => true
  | (a, b) :: rest =>
    decide (a < 0x100000) && decide (Memory.unlisted a ≠ some b) && rest.all (fun c => decide (a < c.1)) &&
      Memory.wf rest

/-- The byte memory holds at an address, if it has a value. -/
def Memory.lookup : Memory → Nat → Option Byte
  | [], a => Memory.unlisted a
  | (k, b) :: rest, a => if a = k then some b else Memory.lookup rest a

/-- Memory with one byte put at an address, in canonical form: a byte equal to what the unlisted address holds is not
listed. -/
def Memory.put : Memory → Nat → Byte → Memory
  | [], a, b => if Memory.unlisted a = some b then [] else [(a, b)]
  | (k, c) :: rest, a, b =>
    if a < k then
      if Memory.unlisted a = some b then (k, c) :: rest else (a, b) :: (k, c) :: rest
    else if a = k then
      if Memory.unlisted a = some b then rest else (a, b) :: rest
    else (k, c) :: Memory.put rest a b

/-- A read of one byte. A byte without a value reads as the free constant `Config.initialByte` at its address
(20_memory.md R66; 92_eei_decisions.md D29; assumption log 4). -/
def Memory.readByte (m : Memory) (a : Addr) : Byte :=
  match m.lookup a.toNat with
  | some b => b
  | none => Config.initialByte a

/-- A short, its least significant byte at the smallest address (20_memory.md R50, R51). -/
def Memory.readShort (m : Memory) (a : Addr) : Short := m.readByte (a + 1#20) ++ m.readByte a

/-- A word, its least significant byte at the smallest address (20_memory.md R50, R51). -/
def Memory.readWord (m : Memory) (a : Addr) : Word :=
  wordOfBytes (m.readByte a) (m.readByte (a + 1#20)) (m.readByte (a + 2#20)) (m.readByte (a + 3#20))

/-- A write of one byte. -/
def Memory.writeByte (m : Memory) (a : Addr) (b : Byte) : Memory := m.put a.toNat b

/-- A write of a short (20_memory.md R51). -/
def Memory.writeShort (m : Memory) (a : Addr) (v : Short) : Memory :=
  (m.writeByte a (v.extractLsb' 0 8)).writeByte (a + 1#20) (v.extractLsb' 8 8)

/-- A write of a word (20_memory.md R51). -/
def Memory.writeWord (m : Memory) (a : Addr) (v : Word) : Memory :=
  (((m.writeByte a (field v 0 8)).writeByte (a + 1#20) (field v 8 8)).writeByte (a + 2#20) (field v 16 8)).writeByte
    (a + 3#20) (field v 24 8)

/-! ## Reading and updating the state -/

/-- The register number of the stack pointer, R15 (10_state.md R23). -/
abbrev stackReg : Reg := 15#5

/-- The value of a general register (00_scope.md R11); none is hard-wired (10_state.md R22). -/
def State.reg (s : State) (r : Reg) : Word := s.regs[r.toNat]

/-- The state with a general register written (00_scope.md R11). -/
def State.setReg (s : State) (r : Reg) (v : Word) : State := { s with regs := s.regs.set r.toNat v }

/-- The state with the program counter written. -/
def State.setPc (s : State) (a : Addr) : State := { s with pc := a }

/-- The state with the machine status register written. -/
def State.setMs (s : State) (v : Word) : State := { s with ms := v }

/-- The state with the supervisor stack pointer register written. -/
def State.setSsp (s : State) (a : Addr) : State := { s with ssp := a }

/-- The state with memory replaced. -/
def State.setMem (s : State) (m : Memory) : State := { s with mem := m }

/-- The state with the pending set replaced. -/
def State.setPending (s : State) (vs : List Vect) : State := { s with pending := vs }

/-- The state halted (45_system_io.md R229). -/
def State.halt (s : State) : State := { s with halted := true }

/-- The state Faulted with an error (60_exceptions.md R241). -/
def State.withFault (s : State) (e : MachineError) : State := { s with fault := some e }

/-- The state with the input queue replaced. -/
def State.setInQueue (s : State) (q : List Byte) : State := { s with inQueue := q }

/-- The state after the byte output device has put out one more byte (60_exceptions.md R278). -/
def State.emit (s : State) (b : Byte) : State := { s with output := s.output ++ [b] }

/-- The state with the clock showing another date and time. -/
def State.setClock (s : State) (c : Clock) : State := { s with clock := c }

/-- The state with one more free value drawn. -/
def State.countDraw (s : State) : State := { s with draws := s.draws + 1 }

/-- The state with the arrivals to come replaced. -/
def State.setArrivals (s : State) (l : List (List Byte)) : State := { s with arrivals := l }

/-- The processor is in supervisor mode (10_state.md R33). -/
def State.supervisor (s : State) : Bool := modeIndicator s.ms

/-- `SetFlags_n(x)` (10_state.md R31). -/
def State.setFlags {n : Nat} (s : State) (x : BitVec n) : State := s.setMs (withFlagsOf x s.ms)

/-- `x[DR] <- v; SetFlags_32(v)`: how every instruction with a 32-bit result and flags ends. -/
def State.writeResult (s : State) (dr : Reg) (v : Word) : State := (s.setReg dr v).setFlags v

/-! ## Actions: pseudocode that can raise an error

An action runs on a state and either completes with a value or raises an error; either way it says which state it has
reached, so the effects of the statements before a `raise` stand (00_scope.md R17; 60_exceptions.md R241; assumption
log 2). -/

/-- A sequence of pseudocode statements. -/
abbrev Act := EStateM MachineError State

/-- A value read from the state. -/
def look {α : Type} (f : State → α) : Act α := fun s => .ok (f s) s

/-- An update of the state. -/
def change (f : State → State) : Act Unit := fun s => .ok () (f s)

/-- Goes on if the condition holds; otherwise `raise E` (00_scope.md R17). -/
def require (ok : Bool) (e : MachineError) : Act Unit := fun s => if ok then .ok () s else .error e s

/-- The outcome of an instruction or an interrupt service: the state it completed in, or the state it raised in, made
Faulted (60_exceptions.md R241; assumption log 1). -/
def perform (act : Act Unit) (s : State) : Result :=
  match act s with
  | .ok _ s' => .next s'
  | .error e s' => .next (s'.withFault e)

/-- `x[r]`. -/
def readReg (r : Reg) : Act Word := look fun s => s.reg r

/-- `x[r] <- v`. -/
def writeReg (r : Reg) (v : Word) : Act Unit := change fun s => s.setReg r v

/-- `pc`. -/
def readPc : Act Addr := look fun s => s.pc

/-- `pc <- a`. -/
def writePc (a : Addr) : Act Unit := change fun s => s.setPc a

/-- `ms`, all 32 bits (10_state.md R30). -/
def readMs : Act Word := look fun s => s.ms

/-- `ms <- v`, all 32 bits (10_state.md R34). -/
def writeMs (v : Word) : Act Unit := change fun s => s.setMs v

/-- `MI <- 1` (10_state.md R33). -/
def setSupervisor : Act Unit := change fun s => s.setMs (withSupervisor s.ms)

/-- `ssp`. -/
def readSsp : Act Addr := look fun s => s.ssp

/-- `ssp <- a`. -/
def writeSsp (a : Addr) : Act Unit := change fun s => s.setSsp a

/-- `SetFlags_n(x)` (10_state.md R31). -/
def updateFlags {n : Nat} (x : BitVec n) : Act Unit := change fun s => s.setFlags x

/-! ## Memory access with its checks -/

/-- The first address above the protected address space (20_memory.md R62). -/
def protectedLimit : Addr := 0x08000#20

/-- An access of `n` bytes at the address is aligned (20_memory.md R53). -/
def aligned (a : Addr) (n : Nat) : Bool := a.toNat % n == 0

/-- An access to the address is allowed in the state's mode (20_memory.md R62). -/
def State.mayAccess (s : State) (a : Addr) : Bool := s.supervisor || decide (protectedLimit.toNat ≤ a.toNat)

/-- The alignment check (20_memory.md R54, R55). -/
def checkAligned (a : Addr) (n : Nat) : Act Unit := require (aligned a n) (.alignmentError a n)

/-- The user-mode protection check (20_memory.md R55, R62). -/
def checkAllowed (a : Addr) : Act Unit := do
  let allowed ← look fun s => s.mayAccess a
  require allowed (.protectionError a)

/-- The two checks of an access, alignment first (20_memory.md R55, R56; assumption log 22). -/
def checkAccess (a : Addr) (n : Nat) : Act Unit := do
  checkAligned a n
  checkAllowed a

/-- `MemRead(a, 1)` (20_memory.md R55). -/
def memReadByte (a : Addr) : Act Byte := do
  checkAccess a 1
  look fun s => s.mem.readByte a

/-- `MemRead(a, 2)` (20_memory.md R55). -/
def memReadShort (a : Addr) : Act Short := do
  checkAccess a 2
  look fun s => s.mem.readShort a

/-- `MemRead(a, 4)` (20_memory.md R55). -/
def memReadWord (a : Addr) : Act Word := do
  checkAccess a 4
  look fun s => s.mem.readWord a

/-- `MemWrite(a, 1, v)` (20_memory.md R56). -/
def memWriteByte (a : Addr) (v : Byte) : Act Unit := do
  checkAccess a 1
  change fun s => s.setMem (s.mem.writeByte a v)

/-- `MemWrite(a, 2, v)` (20_memory.md R56). -/
def memWriteShort (a : Addr) (v : Short) : Act Unit := do
  checkAccess a 2
  change fun s => s.setMem (s.mem.writeShort a v)

/-- `MemWrite(a, 4, v)` (20_memory.md R56). -/
def memWriteWord (a : Addr) (v : Word) : Act Unit := do
  checkAccess a 4
  change fun s => s.setMem (s.mem.writeWord a v)

/-- `MemReadSys(a, 4)`: no protection check (20_memory.md R57; assumption log 12). -/
def memReadWordSys (a : Addr) : Act Word := do
  checkAligned a 4
  look fun s => s.mem.readWord a

/-- `MemWriteSys(a, 4, v)`: no protection check (20_memory.md R57; assumption log 12). -/
def memWriteWordSys (a : Addr) (v : Word) : Act Unit := do
  checkAligned a 4
  change fun s => s.setMem (s.mem.writeWord a v)

/-! ## The stack -/

/-- The memory address a 32-bit register value stands for: its bits 19:0 (20_memory.md R65; 92_eei_decisions.md D5). -/
def addrOf (v : Word) : Addr := v.setWidth 20

/-- An address as a register value: `zext_32`. -/
def wordOf (a : Addr) : Word := a.setWidth 32

/-- `x[15] <- x[15] - 4`, modulo 2^32 (00_scope.md R15). -/
def growStack : Act Unit := change fun s => s.setReg stackReg (s.reg stackReg - 4#32)

/-- `x[15] <- x[15] + 4`, modulo 2^32 (00_scope.md R15). -/
def shrinkStack : Act Unit := change fun s => s.setReg stackReg (s.reg stackReg + 4#32)

/-- `Push(v)`: the decrement, then the checked write (00_scope.md R15). -/
def push (v : Word) : Act Unit := do
  growStack
  let sp ← readReg stackReg
  memWriteWord (addrOf sp) v

/-- `Pop()`: the checked read, then the increment (00_scope.md R15). -/
def pop : Act Word := do
  let sp ← readReg stackReg
  let v ← memReadWord (addrOf sp)
  shrinkStack
  return v

/-- `PushSys(v)` (00_scope.md R15; 20_memory.md R57). -/
def pushSys (v : Word) : Act Unit := do
  growStack
  let sp ← readReg stackReg
  memWriteWordSys (addrOf sp) v

/-! ## Control -/

/-- `TransferTo(a)`: the alignment check of the target, then the program counter (42_control.md R153). -/
def transferTo (a : Addr) : Act Unit := do
  checkAligned a 4
  writePc a

/-- `PrivCheck()` (45_system_io.md R220). -/
def privCheck : Act Unit := do
  let ms ← readMs
  require (modeIndicator ms) .privilegeViolation

/-- Bit 31 of an IVT or SCT entry: its enable bit (60_exceptions.md R254, R262). -/
def entryEnabled (entry : Word) : Bool := entry.getLsbD 31

/-- The address of an IVT entry (60_exceptions.md R254). -/
def ivtAddr (v : Vect) : Addr := BitVec.ofNat 20 (4 * v.val)

/-- The address of an SCT entry (60_exceptions.md R262). -/
def sctAddr (n : BitVec 6) : Addr := BitVec.ofNat 20 (0x00100 + 4 * n.toNat)

/-- The stack switch of an entry: R15 takes the supervisor stack pointer and its old value is pushed there
(42_control.md R160; 60_exceptions.md R255). -/
def switchStack : Act Unit := do
  let old ← readReg stackReg
  let top ← readSsp
  writeReg stackReg (wordOf top)
  pushSys old

/-- Entering supervisor mode, the one operation SCL and interrupt entry share: the stack switch where it is made, then
`ms` and `pc` pushed in that order, MI set, and the handler's address, bits 19:0 of the table entry, into `pc`
(42_control.md R160; 60_exceptions.md R249, R255, R263). -/
def enterSupervisor (switch : Bool) (entry : Word) : Act Unit := do
  if switch then switchStack else pure ()
  let image ← readMs
  pushSys image
  let back ← readPc
  pushSys (wordOf back)
  setSupervisor
  transferTo (addrOf entry)

/-- The end of RETI: in user mode, R15 takes the third word of the frame, unchecked and without an increment
(42_control.md R163; 20_memory.md R57). -/
def restoreUserStack : Act Unit := do
  let ms ← readMs
  if modeIndicator ms then pure ()
  else do
    let sp ← readReg stackReg
    let saved ← memReadWordSys (addrOf sp)
    writeReg stackReg saved

/-- Returning from a handler: the return address, all of `ms`, then the user stack if the mode just loaded is user
mode (42_control.md R163; 60_exceptions.md R264). -/
def returnFromHandler : Act Unit := do
  let back ← pop
  transferTo (addrOf back)
  let image ← pop
  writeMs image
  restoreUserStack

/-! ## Interrupts and the environment -/

/-- A vector added to the pending set, kept strictly rising (10_state.md R39). -/
def insertVect (v : Vect) : List Vect → List Vect
  | [] => [v]
  | w :: rest => if v < w then v :: w :: rest else if v = w then w :: rest else w :: insertVect v rest

/-- The pending vector that is checked next, and the state with it removed from the set; none if nothing is pending.
With several pending the free constant `Config.interruptChoice` picks one (60_exceptions.md R251, R255, R256;
assumption log 8 and 10). -/
def takePending (s : State) : Option (Vect × State) :=
  match s.pending with
  | [] => none
  | [v] => some (v, s.setPending [])
  | v :: w :: rest =>
    let all := v :: w :: rest
    let chosen := all.getD (Config.interruptChoice s.draws % all.length) v
    some (chosen, (s.setPending (all.erase chosen)).countDraw)

/-- `ServiceInterrupt(v)` after the removal from the pending set: the IVT entry is read; a disabled entry ends the
service; otherwise supervisor mode is entered, with the stack switch only from user mode (60_exceptions.md R255). -/
def serviceInterrupt (v : Vect) : Act Unit := do
  let entry ← memReadWordSys (ivtAddr v)
  let ms ← readMs
  if entryEnabled entry then enterSupervisor (!modeIndicator ms) entry else pure ()

/-- The most bytes the input queue holds (92_eei_decisions.md D33). -/
def maxQueue : Nat := 65535

/-- The environment event `Arrive(bs)`: the bytes join the queue and vector 8 becomes pending. It is not offered with
no bytes, or where the queue would exceed its bound (60_exceptions.md R275, R277; 92_eei_decisions.md D33). -/
def arrive (bs : List Byte) (s : State) : State :=
  if bs = [] then s
  else if maxQueue < s.inQueue.length + bs.length then s
  else (s.setInQueue (s.inQueue ++ bs)).setPending (insertVect 8 s.pending)

/-- What the environment does at the boundary before a step: the next entry of `arrivals`, if any (R277, R297;
assumption log 9). -/
def environment (s : State) : State :=
  match s.arrivals with
  | [] => s
  | bs :: later => arrive bs (s.setArrivals later)

/-- The terminal state the machine is in, if it is in one: Faulted or halted (70_reset_and_hazards.md R301). -/
def State.terminal (s : State) : Option Fault :=
  match s.fault with
  | some e => some (.faulted e)
  | none => if s.halted then some .halted else none

/-! ## Ports -/

/-- A fresh draw of 32 bits by the environment (70_reset_and_hazards.md R303; assumption log 6). -/
def drawBits : Act Word := do
  let v ← look fun s => Config.drawWord s.draws
  change State.countDraw
  return v

/-- Time passes at the clock: it shows a fresh draw of a date and time (60_exceptions.md R271; assumption log 7). -/
def readClock : Act Clock := do
  let now ← look fun s => Config.clockNow s.draws
  change fun s => (s.setClock now).countDraw
  return now

/-- The date word: `reserved` at 31:25, day at 24:20, month at 19:16, year at 15:0 (60_exceptions.md R272). -/
def dateWord (reserved : Word) (c : Clock) : Word :=
  pack (reserved.extractLsb' 25 7 ++ BitVec.ofNat 5 (c.day.val + 1) ++ BitVec.ofNat 4 (c.month.val + 1) ++ c.year)

/-- The time word: `reserved` at 31:17, hour at 16:12, minute at 11:6, second at 5:0 (60_exceptions.md R273). -/
def timeWord (reserved : Word) (c : Clock) : Word :=
  pack (reserved.extractLsb' 17 15 ++ BitVec.ofNat 5 c.hour.val ++ BitVec.ofNat 6 c.minute.val ++
    BitVec.ofNat 6 c.second.val)

/-- Port 8: the queue's length at 15:0, any value above (60_exceptions.md R275). -/
def countWord (undefinedBits : Word) (q : List Byte) : Word :=
  pack (undefinedBits.extractLsb' 16 16 ++ BitVec.ofNat 16 q.length)

/-- Port 9 with a byte waiting: the byte at 7:0, any value above (60_exceptions.md R276). -/
def inputWord (undefinedBits : Word) (b : Byte) : Word := pack (undefinedBits.extractLsb' 8 24 ++ b)

/-- A read of port 9: the first byte leaves the queue; with none waiting, any value (60_exceptions.md R276). -/
def takeInput : Act Word := do
  let free ← drawBits
  let queue ← look fun s => s.inQueue
  match queue with
  | [] => return free
  | b :: rest => do
    change fun s => s.setInQueue rest
    return inputWord free b

/-- `PortRead(p)` (60_exceptions.md R270 to R279). -/
def portRead (p : Port) : Act Word :=
  if p = 4#8 then do
    let now ← readClock
    let free ← drawBits
    return dateWord free now
  else if p = 5#8 then do
    let now ← readClock
    let free ← drawBits
    return timeWord free now
  else if p = 8#8 then do
    let free ← drawBits
    look fun s => countWord free s.inQueue
  else if p = 9#8 then takeInput
  else drawBits

/-- `PortWrite(p, v)`: port 12 puts out bits 7:0; a write to any other port has no effect (60_exceptions.md R270,
R278, R279; assumption log 6). -/
def portWrite (p : Port) (v : Word) : Act Unit :=
  if p = 12#8 then change fun s => s.emit (v.setWidth 8) else pure ()

/-! ## Fetch -/

/-- The fetch of an instruction and the increment of the program counter, in 20 bits (70_reset_and_hazards.md R296,
R297; 20_memory.md R52; 10_state.md R27). -/
def fetch : Act Word := do
  let a ← readPc
  let w ← memReadWord a
  writePc (a + 4#20)
  return w

end Sys2Proof.Machine
end

