-- ==== Sys2Proof/Machine/Operands.lean ====
section
/-! DEFINITION. Machine/Operands.lean: the operand forms (30_encoding.md R81, R96; 20_memory.md R65) and the value
computations of the multiplies and the shifts (00_scope.md R13, R18). -/

namespace Sys2Proof.Machine

/-! ## Immediates and parts of registers -/

/-- `sext_32` of a 16-bit immediate (30_encoding.md R96). -/
def signed16 (imm : BitVec 16) : Word := imm.signExtend 32

/-- `zext_32` of a 16-bit immediate (30_encoding.md R96). -/
def unsigned16 (imm : BitVec 16) : Word := imm.setWidth 32

/-- Bits 7:0 of a value. -/
def lowByte (v : Word) : Byte := v.extractLsb' 0 8

/-- Bits 15:0 of a value. -/
def lowShort (v : Word) : Short := v.extractLsb' 0 16

/-- A value with its bits 7:0 replaced (00_scope.md R11). -/
def withLowByte (v : Word) (b : Byte) : Word := pack (v.extractLsb' 8 24 ++ b)

/-- A value with its bits 15:0 replaced (00_scope.md R11). -/
def withLowShort (v : Word) (h : Short) : Word := pack (v.extractLsb' 16 16 ++ h)

/-- `sext_32` of a byte. -/
def signedByte (b : Byte) : Word := b.signExtend 32

/-- `sext_32` of a short. -/
def signedShort (h : Short) : Word := h.signExtend 32

/-! ## Addresses -/

/-- The address of `[Ra]`: bits 19:0 of the register (20_memory.md R65). -/
def State.indirect (s : State) (a : Reg) : Addr := addrOf (s.reg a)

/-- The address of `[Ra+Rb]`: bits 19:0 of the 32-bit sum (20_memory.md R65). -/
def State.indexed (s : State) (a b : Reg) : Addr := addrOf (s.reg a + s.reg b)

/-- The port number in a register: bits 7:0 (45_system_io.md R225). -/
def State.portOf (s : State) (r : Reg) : Port := lowByte (s.reg r)

/-! ## Multiplication -/

/-- `NextReg(n)`, modulo 8 (10_state.md R24; assumption log 19). -/
def nextReg (r : Reg) : Reg := BitVec.ofNat 5 ((r.toNat + 1) % 8)

/-- `SMul_N`: the exact signed product in `m` bits (00_scope.md R18). -/
def signedProduct {n : Nat} (m : Nat) (a b : BitVec n) : BitVec m := BitVec.ofInt m (a.toInt * b.toInt)

/-- `UMul_N`: the exact unsigned product in `m` bits (00_scope.md R18). -/
def unsignedProduct {n : Nat} (m : Nat) (a b : BitVec n) : BitVec m := BitVec.ofNat m (a.toNat * b.toNat)

/-- A byte multiply's end: `x[DR][15:0]` and the flags of the 16-bit product (40_arithmetic.md R115). -/
def State.writeProduct16 (s : State) (dr : Reg) (v : BitVec 16) : State :=
  (s.setReg dr (withLowShort (s.reg dr) v)).setFlags v

/-- A word multiply's end: the low word to DR, the high word to NextReg(DR), the flags of the 64-bit product
(40_arithmetic.md R115, R118). -/
def State.writeProduct64 (s : State) (dr : Reg) (v : BitVec 64) : State :=
  ((s.setReg dr (v.extractLsb' 0 32)).setReg (nextReg dr) (v.extractLsb' 32 32)).setFlags v

/-! ## Shifts: the whole count, unsigned (00_scope.md R13; 41_logic_shift.md R138; assumption log 15) -/

/-- `LShift`: 0 for a count of 32 or more (41_logic_shift.md R139). -/
def shiftLeft (x : Word) (count : Nat) : Word := if count < 32 then x <<< count else 0#32

/-- `RShift`: 0 for a count of 32 or more (41_logic_shift.md R141). -/
def shiftRight (x : Word) (count : Nat) : Word := if count < 32 then x >>> count else 0#32

/-- `RAShift`: copies of bit 31 come in, 32 of them for a count of 32 or more (41_logic_shift.md R143). -/
def shiftRightArith (x : Word) (count : Nat) : Word := x.sshiftRight (min count 32)

end Sys2Proof.Machine
end

