-- ==== Sys2Proof/Machine/Arithmetic.lean ====
section
/-! DEFINITION. Machine/Arithmetic.lean: ADD, SUB, the six multiplies, NEG and CMP (40_arithmetic.md R110 to R124). None raises an
error; results wrap modulo 2^32 (R110; assumption log 16); every source is read before a register is written. -/

namespace Sys2Proof.Machine

/-- ADD, register form (R111): the 32-bit sum and its flags. -/
def execAddR (dr sr1 sr2 : Reg) (s : State) : Host.Outcome State Fault Refusal :=
  .next (s.writeResult dr (s.reg sr1 + s.reg sr2))

/-- ADD, immediate form (R112): the immediate is sign-extended. -/
def execAddI (dr sr1 : Reg) (imm16 : BitVec 16) (s : State) : Host.Outcome State Fault Refusal :=
  .next (s.writeResult dr (s.reg sr1 + signed16 imm16))

/-- SUB, register form (R113): the 32-bit difference and its flags. -/
def execSubR (dr sr1 sr2 : Reg) (s : State) : Host.Outcome State Fault Refusal :=
  .next (s.writeResult dr (s.reg sr1 - s.reg sr2))

/-- SUB, immediate form (R114): the immediate is sign-extended. -/
def execSubI (dr sr1 : Reg) (imm16 : BitVec 16) (s : State) : Host.Outcome State Fault Refusal :=
  .next (s.writeResult dr (s.reg sr1 - signed16 imm16))

/-- MULBI (R116): signed multiply of the low bytes; the product goes to DR[15:0]. -/
def execMulbi (dr sr1 sr2 : Reg) (s : State) : Host.Outcome State Fault Refusal :=
  .next (s.writeProduct16 dr (signedProduct 16 (lowByte (s.reg sr1)) (lowByte (s.reg sr2))))

/-- MULSI (R117): signed multiply of the low shorts; the product goes to DR. -/
def execMulsi (dr sr1 sr2 : Reg) (s : State) : Host.Outcome State Fault Refusal :=
  .next (s.writeResult dr (signedProduct 32 (lowShort (s.reg sr1)) (lowShort (s.reg sr2))))

/-- MULWI (R118): signed multiply of the words; the product goes to DR and NextReg(DR). -/
def execMulwi (dr sr1 sr2 : Reg) (s : State) : Host.Outcome State Fault Refusal :=
  .next (s.writeProduct64 dr (signedProduct 64 (s.reg sr1) (s.reg sr2)))

/-- MULBU (R119): unsigned multiply of the low bytes; the product goes to DR[15:0]. -/
def execMulbu (dr sr1 sr2 : Reg) (s : State) : Host.Outcome State Fault Refusal :=
  .next (s.writeProduct16 dr (unsignedProduct 16 (lowByte (s.reg sr1)) (lowByte (s.reg sr2))))

/-- MULSU (R120): unsigned multiply of the low shorts; the product goes to DR. -/
def execMulsu (dr sr1 sr2 : Reg) (s : State) : Host.Outcome State Fault Refusal :=
  .next (s.writeResult dr (unsignedProduct 32 (lowShort (s.reg sr1)) (lowShort (s.reg sr2))))

/-- MULWU (R121): unsigned multiply of the words; the product goes to DR and NextReg(DR). -/
def execMulwu (dr sr1 sr2 : Reg) (s : State) : Host.Outcome State Fault Refusal :=
  .next (s.writeProduct64 dr (unsignedProduct 64 (s.reg sr1) (s.reg sr2)))

/-- NEG (R122): the two's complement of the source and its flags. -/
def execNeg (dr sr : Reg) (s : State) : Host.Outcome State Fault Refusal :=
  .next (s.writeResult dr (0#32 - s.reg sr))

/-- CMP, register form (R123): the flags of the difference; no register is written. -/
def execCmpR (sr1 sr2 : Reg) (s : State) : Host.Outcome State Fault Refusal :=
  .next (s.setFlags (s.reg sr1 - s.reg sr2))

/-- CMP, immediate form (R124): the immediate is sign-extended. -/
def execCmpI (sr1 : Reg) (imm16 : BitVec 16) (s : State) : Host.Outcome State Fault Refusal :=
  .next (s.setFlags (s.reg sr1 - signed16 imm16))

end Sys2Proof.Machine
end

