-- ==== Sys2Proof/Machine/Control.lean ====
section
/-! DEFINITION. Machine/Control.lean: JC, JMP, CALL, SCL, RET and RETI (42_control.md R150 to R164). Every target is an absolute 20-bit
address; `pc` already holds the address of the next instruction. -/

namespace Sys2Proof.Machine

/-- A conditional transfer: nothing is examined when the condition does not hold (R150). -/
def transferIf (cond : Bool) (target : Addr) : Act Unit :=
  if cond then transferTo target else pure ()

/-- CALL: `pc` is pushed, then the target, formed from the registers after the push, is checked and taken (R157 to
R159; assumption log 24). -/
def callVia (target : State → Addr) : Act Unit := do
  let back ← readPc
  push (wordOf back)
  let a ← look target
  transferTo a

/-- JC, absolute form (R150): transfers if a tested flag is set. -/
def execJcA (n p z : Bool) (addr20 : Addr) (s : State) : Host.Outcome State Fault Refusal :=
  perform (transferIf (conditionHolds n p z s.ms) addr20) s

/-- JC, register form (R151): transfers if a tested flag is set. -/
def execJcR (n p z : Bool) (sr : Reg) (s : State) : Host.Outcome State Fault Refusal :=
  perform (transferIf (conditionHolds n p z s.ms) (s.indirect sr)) s

/-- JC, indexed form (R152): transfers if a tested flag is set. -/
def execJcX (n p z : Bool) (sr1 sr2 : Reg) (s : State) : Host.Outcome State Fault Refusal :=
  perform (transferIf (conditionHolds n p z s.ms) (s.indexed sr1 sr2)) s

/-- JMP, absolute form (R154): always transfers, whatever the flags. -/
def execJmpA (addr20 : Addr) (s : State) : Host.Outcome State Fault Refusal :=
  perform (transferTo addr20) s

/-- JMP, register form (R155): always transfers, whatever the flags. -/
def execJmpR (sr : Reg) (s : State) : Host.Outcome State Fault Refusal :=
  perform (transferTo (s.indirect sr)) s

/-- JMP, indexed form (R156): always transfers, whatever the flags. -/
def execJmpX (sr1 sr2 : Reg) (s : State) : Host.Outcome State Fault Refusal :=
  perform (transferTo (s.indexed sr1 sr2)) s

/-- CALL, absolute form (R157): pushes the return address and transfers. -/
def execCallA (addr20 : Addr) (s : State) : Host.Outcome State Fault Refusal :=
  perform (callVia (fun _ => addr20)) s

/-- CALL, register form (R158): pushes the return address and transfers. -/
def execCallR (sr : Reg) (s : State) : Host.Outcome State Fault Refusal :=
  perform (callVia (fun now => now.indirect sr)) s

/-- CALL, indexed form (R159): pushes the return address and transfers. -/
def execCallX (sr1 sr2 : Reg) (s : State) : Host.Outcome State Fault Refusal :=
  perform (callVia (fun now => now.indexed sr1 sr2)) s

/-- SCL (R160): the table entry is read and must be enabled; then supervisor mode is entered, always with the stack
switch. -/
def execScl (imm6 : BitVec 6) (s : State) : Host.Outcome State Fault Refusal :=
  perform (do
    let entry ← memReadWordSys (sctAddr imm6)
    require (entryEnabled entry) (.sctDisabled imm6)
    enterSupervisor true entry) s

/-- RET (R162): returns from a subroutine through the popped address. -/
def execRet (s : State) : Host.Outcome State Fault Refusal :=
  perform (do
    let back ← pop
    transferTo (addrOf back)) s

/-- RETI, also written RETS (R163): privileged; returns from a handler. -/
def execReti (s : State) : Host.Outcome State Fault Refusal :=
  perform (do
    privCheck
    returnFromHandler) s

end Sys2Proof.Machine
end

