-- ==== Sys2Proof/Machine/CopyStack.lean ====
section
/-! DEFINITION. Machine/CopyStack.lean: CPY, PUSH and POP (44_copy_stack.md R200 to R212). None is privileged and none writes a flag.
Where R15 is an operand too, the order of the pseudocode is followed (assumption log 24). -/

namespace Sys2Proof.Machine

/-- CPY (R200): a register to a register. -/
def execCpy (dr sr : Reg) (s : State) : Host.Outcome State Fault Refusal :=
  .next (s.setReg dr (s.reg sr))

/-- CPYI (R201): a sign-extended immediate. -/
def execCpyi (dr : Reg) (imm16 : BitVec 16) (s : State) : Host.Outcome State Fault Refusal :=
  .next (s.setReg dr (signed16 imm16))

/-- CPYU (R202): a zero-extended immediate. -/
def execCpyu (dr : Reg) (imm16 : BitVec 16) (s : State) : Host.Outcome State Fault Refusal :=
  .next (s.setReg dr (unsigned16 imm16))

/-- A push of a value formed from a register: R15 is decremented, then the register is read, then the word is stored
(R203). -/
def pushFrom (sr : Reg) (form : Word → Word) : Act Unit := do
  growStack
  let v ← readReg sr
  let sp ← readReg stackReg
  memWriteWord (addrOf sp) (form v)

/-- PUSHI (R204): a sign-extended immediate. -/
def execPushi (imm16 : BitVec 16) (s : State) : Host.Outcome State Fault Refusal :=
  perform (push (signed16 imm16)) s

/-- PUSHU (R205): a zero-extended immediate. -/
def execPushu (imm16 : BitVec 16) (s : State) : Host.Outcome State Fault Refusal :=
  perform (push (unsigned16 imm16)) s

/-- PUSHB (R206): the low byte of a register, sign-extended to a word. -/
def execPushb (sr : Reg) (s : State) : Host.Outcome State Fault Refusal :=
  perform (pushFrom sr (fun v => signedByte (lowByte v))) s

/-- PUSHS (R207): the low short of a register, sign-extended to a word. -/
def execPushs (sr : Reg) (s : State) : Host.Outcome State Fault Refusal :=
  perform (pushFrom sr (fun v => signedShort (lowShort v))) s

/-- PUSHW (R208): a register. -/
def execPushw (sr : Reg) (s : State) : Host.Outcome State Fault Refusal :=
  perform (pushFrom sr (fun v => v)) s

/-- POPB (R210): the byte at the stack pointer replaces DR[7:0], then R15 moves by 4. -/
def execPopb (dr : Reg) (s : State) : Host.Outcome State Fault Refusal :=
  perform (do
    let sp ← readReg stackReg
    let v ← memReadByte (addrOf sp)
    let old ← readReg dr
    writeReg dr (withLowByte old v)
    shrinkStack) s

/-- POPS (R211): the short at the stack pointer replaces DR[15:0], then R15 moves by 4. -/
def execPops (dr : Reg) (s : State) : Host.Outcome State Fault Refusal :=
  perform (do
    let sp ← readReg stackReg
    let v ← memReadShort (addrOf sp)
    let old ← readReg dr
    writeReg dr (withLowShort old v)
    shrinkStack) s

/-- POPW (R212): the word at the stack pointer to DR, then R15 moves by 4. -/
def execPopw (dr : Reg) (s : State) : Host.Outcome State Fault Refusal :=
  perform (do
    let sp ← readReg stackReg
    let v ← memReadWord (addrOf sp)
    writeReg dr v
    shrinkStack) s

end Sys2Proof.Machine
end

