-- ==== Sys2Proof/Machine/LoadStore.lean ====
section
/-! DEFINITION. Machine/LoadStore.lean: LDB, LDS, LDW, STB, STS and STW (43_load_store.md R170 to R190). If the access raises, no
register, flag or byte of memory has changed. -/

namespace Sys2Proof.Machine

/-- The end of a load: the value to DR, and the flags of its 32 bits (R170). -/
def finishLoad (dr : Reg) (v : Word) : Act Unit := do
  writeReg dr v
  updateFlags v

/-- LDB at an address: the byte, sign-extended (R170). -/
def loadByte (dr : Reg) (a : Addr) : Act Unit := do
  let v ← memReadByte a
  finishLoad dr (signedByte v)

/-- LDS at an address: the short, sign-extended (R170). -/
def loadShort (dr : Reg) (a : Addr) : Act Unit := do
  let v ← memReadShort a
  finishLoad dr (signedShort v)

/-- LDW at an address (R170). -/
def loadWord (dr : Reg) (a : Addr) : Act Unit := do
  let v ← memReadWord a
  finishLoad dr v

/-- STB at an address: bits 7:0 of the source register (R180). -/
def storeByte (a : Addr) (sr : Reg) : Act Unit := do
  let v ← readReg sr
  memWriteByte a (lowByte v)

/-- STS at an address: bits 15:0 of the source register (R180). -/
def storeShort (a : Addr) (sr : Reg) : Act Unit := do
  let v ← readReg sr
  memWriteShort a (lowShort v)

/-- STW at an address: the source register (R180). -/
def storeWord (a : Addr) (sr : Reg) : Act Unit := do
  let v ← readReg sr
  memWriteWord a v

/-- LDB, absolute (R171). -/
def execLdbA (dr : Reg) (addr20 : Addr) (s : State) : Host.Outcome State Fault Refusal :=
  perform (loadByte dr addr20) s

/-- LDB, register indirect (R172). -/
def execLdbR (dr sr : Reg) (s : State) : Host.Outcome State Fault Refusal :=
  perform (loadByte dr (s.indirect sr)) s

/-- LDB, indexed (R173). -/
def execLdbX (dr sr1 sr2 : Reg) (s : State) : Host.Outcome State Fault Refusal :=
  perform (loadByte dr (s.indexed sr1 sr2)) s

/-- LDS, absolute (R174). -/
def execLdsA (dr : Reg) (addr20 : Addr) (s : State) : Host.Outcome State Fault Refusal :=
  perform (loadShort dr addr20) s

/-- LDS, register indirect (R175). -/
def execLdsR (dr sr : Reg) (s : State) : Host.Outcome State Fault Refusal :=
  perform (loadShort dr (s.indirect sr)) s

/-- LDS, indexed (R176). -/
def execLdsX (dr sr1 sr2 : Reg) (s : State) : Host.Outcome State Fault Refusal :=
  perform (loadShort dr (s.indexed sr1 sr2)) s

/-- LDW, absolute (R177). -/
def execLdwA (dr : Reg) (addr20 : Addr) (s : State) : Host.Outcome State Fault Refusal :=
  perform (loadWord dr addr20) s

/-- LDW, register indirect (R178). -/
def execLdwR (dr sr : Reg) (s : State) : Host.Outcome State Fault Refusal :=
  perform (loadWord dr (s.indirect sr)) s

/-- LDW, indexed (R179). -/
def execLdwX (dr sr1 sr2 : Reg) (s : State) : Host.Outcome State Fault Refusal :=
  perform (loadWord dr (s.indexed sr1 sr2)) s

/-- STB, absolute (R181). -/
def execStbA (addr20 : Addr) (sr : Reg) (s : State) : Host.Outcome State Fault Refusal :=
  perform (storeByte addr20 sr) s

/-- STB, register indirect (R182): DR holds the address and is read. -/
def execStbR (dr sr : Reg) (s : State) : Host.Outcome State Fault Refusal :=
  perform (storeByte (s.indirect dr) sr) s

/-- STB, indexed (R183): DR1 and DR2 hold the address and are read. -/
def execStbX (dr1 dr2 sr : Reg) (s : State) : Host.Outcome State Fault Refusal :=
  perform (storeByte (s.indexed dr1 dr2) sr) s

/-- STS, absolute (R184). -/
def execStsA (addr20 : Addr) (sr : Reg) (s : State) : Host.Outcome State Fault Refusal :=
  perform (storeShort addr20 sr) s

/-- STS, register indirect (R185): DR holds the address and is read. -/
def execStsR (dr sr : Reg) (s : State) : Host.Outcome State Fault Refusal :=
  perform (storeShort (s.indirect dr) sr) s

/-- STS, indexed (R186): DR1 and DR2 hold the address and are read. -/
def execStsX (dr1 dr2 sr : Reg) (s : State) : Host.Outcome State Fault Refusal :=
  perform (storeShort (s.indexed dr1 dr2) sr) s

/-- STW, absolute (R187). -/
def execStwA (addr20 : Addr) (sr : Reg) (s : State) : Host.Outcome State Fault Refusal :=
  perform (storeWord addr20 sr) s

/-- STW, register indirect (R188): DR holds the address and is read. -/
def execStwR (dr sr : Reg) (s : State) : Host.Outcome State Fault Refusal :=
  perform (storeWord (s.indirect dr) sr) s

/-- STW, indexed (R189): DR1 and DR2 hold the address and are read. -/
def execStwX (dr1 dr2 sr : Reg) (s : State) : Host.Outcome State Fault Refusal :=
  perform (storeWord (s.indexed dr1 dr2) sr) s

end Sys2Proof.Machine
end

