-- ==== Sys2Proof/Machine/Logic.lean ====
section
/-! DEFINITION. Machine/Logic.lean: AND, OR, NOT, XOR and the shifts (41_logic_shift.md R130 to R145). None raises an error; every one
ends with the flags of the value written. -/

namespace Sys2Proof.Machine

/-- AND, register form (R131): the bitwise conjunction and its flags (90_conflicts.md C1). -/
def execAndR (dr sr1 sr2 : Reg) (s : State) : Host.Outcome State Fault Refusal :=
  .next (s.writeResult dr (s.reg sr1 &&& s.reg sr2))

/-- AND, immediate form (R132): the immediate is sign-extended. -/
def execAndI (dr sr1 : Reg) (imm16 : BitVec 16) (s : State) : Host.Outcome State Fault Refusal :=
  .next (s.writeResult dr (s.reg sr1 &&& signed16 imm16))

/-- OR, register form (R133): the bitwise disjunction and its flags (90_conflicts.md C1). -/
def execOrR (dr sr1 sr2 : Reg) (s : State) : Host.Outcome State Fault Refusal :=
  .next (s.writeResult dr (s.reg sr1 ||| s.reg sr2))

/-- OR, immediate form (R134): the immediate is sign-extended. -/
def execOrI (dr sr1 : Reg) (imm16 : BitVec 16) (s : State) : Host.Outcome State Fault Refusal :=
  .next (s.writeResult dr (s.reg sr1 ||| signed16 imm16))

/-- NOT (R135): the bitwise complement and its flags. -/
def execNot (dr sr : Reg) (s : State) : Host.Outcome State Fault Refusal :=
  .next (s.writeResult dr (~~~ s.reg sr))

/-- XOR, register form (R136): the bitwise exclusive or and its flags. -/
def execXorR (dr sr1 sr2 : Reg) (s : State) : Host.Outcome State Fault Refusal :=
  .next (s.writeResult dr (s.reg sr1 ^^^ s.reg sr2))

/-- XOR, immediate form (R137): the immediate is sign-extended. -/
def execXorI (dr sr1 : Reg) (imm16 : BitVec 16) (s : State) : Host.Outcome State Fault Refusal :=
  .next (s.writeResult dr (s.reg sr1 ^^^ signed16 imm16))

/-- SHFL, register count (R139): left shift by the whole unsigned register. -/
def execShflR (dr sr1 sr2 : Reg) (s : State) : Host.Outcome State Fault Refusal :=
  .next (s.writeResult dr (shiftLeft (s.reg sr1) (s.reg sr2).toNat))

/-- SHFL, immediate count (R140): left shift by 0 to 31. -/
def execShflI (dr sr : Reg) (imm5 : BitVec 5) (s : State) : Host.Outcome State Fault Refusal :=
  .next (s.writeResult dr (shiftLeft (s.reg sr) imm5.toNat))

/-- SHFRZ, register count (R141): logical right shift by the whole unsigned register. -/
def execShfrzR (dr sr1 sr2 : Reg) (s : State) : Host.Outcome State Fault Refusal :=
  .next (s.writeResult dr (shiftRight (s.reg sr1) (s.reg sr2).toNat))

/-- SHFRZ, immediate count (R142): logical right shift by 0 to 31. -/
def execShfrzI (dr sr : Reg) (imm5 : BitVec 5) (s : State) : Host.Outcome State Fault Refusal :=
  .next (s.writeResult dr (shiftRight (s.reg sr) imm5.toNat))

/-- SHFRA, register count (R143): arithmetic right shift by the whole unsigned register. -/
def execShfraR (dr sr1 sr2 : Reg) (s : State) : Host.Outcome State Fault Refusal :=
  .next (s.writeResult dr (shiftRightArith (s.reg sr1) (s.reg sr2).toNat))

/-- SHFRA, immediate count (R144): arithmetic right shift by 0 to 31. -/
def execShfraI (dr sr : Reg) (imm5 : BitVec 5) (s : State) : Host.Outcome State Fault Refusal :=
  .next (s.writeResult dr (shiftRightArith (s.reg sr) imm5.toNat))

end Sys2Proof.Machine
end

