-- ==== Sys2Proof/Machine/System.lean ====
section
/-! DEFINITION. Machine/System.lean: IN, OUT, SSSP and HALT (45_system_io.md R220 to R229). All are privileged: the check is their first
statement. -/

namespace Sys2Proof.Machine

/-- IN from a port: the word read to DR, and the flags of its 32 bits (R221, R222). -/
def inputFrom (dr : Reg) (p : Port) : Act Unit := do
  privCheck
  let v ← portRead p
  writeReg dr v
  updateFlags v

/-- OUT to a port: the whole source register is sent (R223, R224). -/
def outputTo (p : Port) (sr : Reg) : Act Unit := do
  privCheck
  let v ← readReg sr
  portWrite p v

/-- SSSP of an address: checked for privilege, then for alignment (R226, R227). -/
def setSupervisorStack (a : Addr) : Act Unit := do
  privCheck
  checkAligned a 4
  writeSsp a

/-- IN, register port number (R221): bits 7:0 of the register. -/
def execInR (dr sr : Reg) (s : State) : Host.Outcome State Fault Refusal :=
  perform (inputFrom dr (s.portOf sr)) s

/-- IN, immediate port number (R222). -/
def execInI (dr : Reg) (imm8 : BitVec 8) (s : State) : Host.Outcome State Fault Refusal :=
  perform (inputFrom dr imm8) s

/-- OUT, register port number (R223): bits 7:0 of the register DR, which is read. -/
def execOutR (dr sr : Reg) (s : State) : Host.Outcome State Fault Refusal :=
  perform (outputTo (s.portOf dr) sr) s

/-- OUT, immediate port number (R224). -/
def execOutI (imm8 : BitVec 8) (sr : Reg) (s : State) : Host.Outcome State Fault Refusal :=
  perform (outputTo imm8 sr) s

/-- SSSP, absolute (R226). -/
def execSsspA (addr20 : Addr) (s : State) : Host.Outcome State Fault Refusal :=
  perform (setSupervisorStack addr20) s

/-- SSSP, register (R227): bits 19:0 of the register. -/
def execSsspR (sr : Reg) (s : State) : Host.Outcome State Fault Refusal :=
  perform (setSupervisorStack (s.indirect sr)) s

/-- HALT (R229): the machine is halted. -/
def execHalt (s : State) : Host.Outcome State Fault Refusal :=
  perform (do
    privCheck
    change State.halt) s

end Sys2Proof.Machine
end

