-- ==== Sys2Proof/Machine/Dispatch.lean ====
section
/-! DEFINITION. Machine/Dispatch.lean: one arm for each instruction, each one call of its meaning. `exec` is the
execute step of the instruction cycle: `pc` has already been advanced (70_reset_and_hazards.md R296). -/

namespace Sys2Proof.Machine

def exec (i : Instr) (s : State) : Host.Outcome State Fault Refusal :=
  match i with
  | .addR dr sr1 sr2 => Sys2Proof.Machine.execAddR dr sr1 sr2 s
  | .addI dr sr1 imm16 => Sys2Proof.Machine.execAddI dr sr1 imm16 s
  | .subR dr sr1 sr2 => Sys2Proof.Machine.execSubR dr sr1 sr2 s
  | .subI dr sr1 imm16 => Sys2Proof.Machine.execSubI dr sr1 imm16 s
  | .mulbi dr sr1 sr2 => Sys2Proof.Machine.execMulbi dr sr1 sr2 s
  | .mulsi dr sr1 sr2 => Sys2Proof.Machine.execMulsi dr sr1 sr2 s
  | .mulwi dr sr1 sr2 => Sys2Proof.Machine.execMulwi dr sr1 sr2 s
  | .mulbu dr sr1 sr2 => Sys2Proof.Machine.execMulbu dr sr1 sr2 s
  | .mulsu dr sr1 sr2 => Sys2Proof.Machine.execMulsu dr sr1 sr2 s
  | .mulwu dr sr1 sr2 => Sys2Proof.Machine.execMulwu dr sr1 sr2 s
  | .neg dr sr => Sys2Proof.Machine.execNeg dr sr s
  | .cmpR sr1 sr2 => Sys2Proof.Machine.execCmpR sr1 sr2 s
  | .cmpI sr1 imm16 => Sys2Proof.Machine.execCmpI sr1 imm16 s
  | .andR dr sr1 sr2 => Sys2Proof.Machine.execAndR dr sr1 sr2 s
  | .andI dr sr1 imm16 => Sys2Proof.Machine.execAndI dr sr1 imm16 s
  | .orR dr sr1 sr2 => Sys2Proof.Machine.execOrR dr sr1 sr2 s
  | .orI dr sr1 imm16 => Sys2Proof.Machine.execOrI dr sr1 imm16 s
  | .not dr sr => Sys2Proof.Machine.execNot dr sr s
  | .xorR dr sr1 sr2 => Sys2Proof.Machine.execXorR dr sr1 sr2 s
  | .xorI dr sr1 imm16 => Sys2Proof.Machine.execXorI dr sr1 imm16 s
  | .shflR dr sr1 sr2 => Sys2Proof.Machine.execShflR dr sr1 sr2 s
  | .shflI dr sr imm5 => Sys2Proof.Machine.execShflI dr sr imm5 s
  | .shfrzR dr sr1 sr2 => Sys2Proof.Machine.execShfrzR dr sr1 sr2 s
  | .shfrzI dr sr imm5 => Sys2Proof.Machine.execShfrzI dr sr imm5 s
  | .shfraR dr sr1 sr2 => Sys2Proof.Machine.execShfraR dr sr1 sr2 s
  | .shfraI dr sr imm5 => Sys2Proof.Machine.execShfraI dr sr imm5 s
  | .jcA n p z addr20 => Sys2Proof.Machine.execJcA n p z addr20 s
  | .jcR n p z sr => Sys2Proof.Machine.execJcR n p z sr s
  | .jcX n p z sr1 sr2 => Sys2Proof.Machine.execJcX n p z sr1 sr2 s
  | .jmpA addr20 => Sys2Proof.Machine.execJmpA addr20 s
  | .jmpR sr => Sys2Proof.Machine.execJmpR sr s
  | .jmpX sr1 sr2 => Sys2Proof.Machine.execJmpX sr1 sr2 s
  | .callA addr20 => Sys2Proof.Machine.execCallA addr20 s
  | .callR sr => Sys2Proof.Machine.execCallR sr s
  | .callX sr1 sr2 => Sys2Proof.Machine.execCallX sr1 sr2 s
  | .scl imm6 => Sys2Proof.Machine.execScl imm6 s
  | .ret => Sys2Proof.Machine.execRet s
  | .reti => Sys2Proof.Machine.execReti s
  | .ldbA dr addr20 => Sys2Proof.Machine.execLdbA dr addr20 s
  | .ldbR dr sr => Sys2Proof.Machine.execLdbR dr sr s
  | .ldbX dr sr1 sr2 => Sys2Proof.Machine.execLdbX dr sr1 sr2 s
  | .ldsA dr addr20 => Sys2Proof.Machine.execLdsA dr addr20 s
  | .ldsR dr sr => Sys2Proof.Machine.execLdsR dr sr s
  | .ldsX dr sr1 sr2 => Sys2Proof.Machine.execLdsX dr sr1 sr2 s
  | .ldwA dr addr20 => Sys2Proof.Machine.execLdwA dr addr20 s
  | .ldwR dr sr => Sys2Proof.Machine.execLdwR dr sr s
  | .ldwX dr sr1 sr2 => Sys2Proof.Machine.execLdwX dr sr1 sr2 s
  | .stbA addr20 sr => Sys2Proof.Machine.execStbA addr20 sr s
  | .stbR dr sr => Sys2Proof.Machine.execStbR dr sr s
  | .stbX dr1 dr2 sr => Sys2Proof.Machine.execStbX dr1 dr2 sr s
  | .stsA addr20 sr => Sys2Proof.Machine.execStsA addr20 sr s
  | .stsR dr sr => Sys2Proof.Machine.execStsR dr sr s
  | .stsX dr1 dr2 sr => Sys2Proof.Machine.execStsX dr1 dr2 sr s
  | .stwA addr20 sr => Sys2Proof.Machine.execStwA addr20 sr s
  | .stwR dr sr => Sys2Proof.Machine.execStwR dr sr s
  | .stwX dr1 dr2 sr => Sys2Proof.Machine.execStwX dr1 dr2 sr s
  | .cpy dr sr => Sys2Proof.Machine.execCpy dr sr s
  | .cpyi dr imm16 => Sys2Proof.Machine.execCpyi dr imm16 s
  | .cpyu dr imm16 => Sys2Proof.Machine.execCpyu dr imm16 s
  | .pushi imm16 => Sys2Proof.Machine.execPushi imm16 s
  | .pushu imm16 => Sys2Proof.Machine.execPushu imm16 s
  | .pushb sr => Sys2Proof.Machine.execPushb sr s
  | .pushs sr => Sys2Proof.Machine.execPushs sr s
  | .pushw sr => Sys2Proof.Machine.execPushw sr s
  | .popb dr => Sys2Proof.Machine.execPopb dr s
  | .pops dr => Sys2Proof.Machine.execPops dr s
  | .popw dr => Sys2Proof.Machine.execPopw dr s
  | .inR dr sr => Sys2Proof.Machine.execInR dr sr s
  | .inI dr imm8 => Sys2Proof.Machine.execInI dr imm8 s
  | .outR dr sr => Sys2Proof.Machine.execOutR dr sr s
  | .outI imm8 sr => Sys2Proof.Machine.execOutI imm8 sr s
  | .ssspA addr20 => Sys2Proof.Machine.execSsspA addr20 s
  | .ssspR sr => Sys2Proof.Machine.execSsspR sr s
  | .halt => Sys2Proof.Machine.execHalt s

end Sys2Proof.Machine
end

