-- ==== Sys2Proof/Machine/Step.lean ====
section
/-! DEFINITION. Machine/Step.lean: one step of the machine (70_reset_and_hazards.md R297), and how a word is placed
where the next step fetches. -/

namespace Sys2Proof.Machine

/-- The step's second and third cases of R297, on a state in which nothing else comes first: fetch, increment, decode,
execute. -/
def runInstruction (s : State) : Host.Outcome State Fault Refusal :=
  match fetch s with
  | .error e s' => .next (s'.withFault e)
  | .ok w s' =>
    match decodeWord w with
    | .ok i => exec i s'
    | .error _ => .next (s'.withFault (.illegalInstruction w))

/-- One turn of the instruction cycle on a running machine: a pending vector is checked, and that is the whole step;
otherwise one instruction runs (R297; 60_exceptions.md R251, R259). -/
def cycle (s : State) : Host.Outcome State Fault Refusal :=
  match takePending s with
  | some (v, s') => perform (serviceInterrupt v) s'
  | none => runInstruction s

/-- One step: the environment acts at the boundary, then the machine turns its cycle once (R297). A machine in a
terminal state turns no cycle: while the environment's events last, a step is one of them and nothing else, and when
none is to come the machine has stopped (R301; assumption log 32). -/
def step (s : State) : Host.Outcome State Fault Refusal :=
  match s.terminal, s.arrivals with
  | none, _ => cycle (environment s)
  | some _, _ :: _ => .next (environment s)
  | some r, [] => .fault r

/-- The state with a word of the opcode table stored, little-endian, at the address the next fetch reads. Whatever
would come before that fetch is taken away: an error, the halted state, pending vectors and arrivals (none of which a
machine at reset has). It stands for the loading of a program from outside (R292; assumption log 27). -/
def State.withFetchWord (s : State) (nbits w : Nat) : State :=
  { s with
    mem := s.mem.writeWord s.pc (tableWord nbits w)
    pending := []
    halted := false
    fault := none
    arrivals := [] }

end Sys2Proof.Machine
end

