-- ==== Sys2Proof/Safety.lean ====
section
/-! DEFINITION. Safety.lean: the words the statements are written in: what a running machine and a sound state are, what
an instruction leaves as it was, and the shapes of effect that several instructions share. Addresses, bytes and flags
are spelt out here from the spec's text, not through the operations the meanings are built from. -/

namespace Sys2Proof.Machine

/-! ## States -/

/-- The machine is in no terminal state: it is neither Faulted nor halted (70_reset_and_hazards.md R301). -/
def State.Running (s : State) : Prop := s.fault = none ∧ s.halted = false

/-- What every step keeps: the canonical form of memory (assumption log 5), a word-aligned `pc` (10_state.md R26) and
`ssp` (R36), `pending` as a set (R39), and the bound of the input queue (92_eei_decisions.md D33). -/
structure State.Inv (s : State) : Prop where
  /-- Memory has its canonical form. -/
  memory : s.mem.wf = true
  /-- R26. -/
  pc : s.pc.toNat % 4 = 0
  /-- R36. -/
  ssp : s.ssp.toNat % 4 = 0
  /-- Strictly rising, so no vector is held twice. -/
  pending : s.pending.Pairwise (· < ·)
  /-- D33. -/
  queue : s.inQueue.length ≤ 65535

/-- The machine with an error recorded and nothing else changed: what `raise E` leaves of the state it is reached in
(60_exceptions.md R241, the spec's decision D1; assumption log 1). -/
def raised (s : State) (e : MachineError) : State := { s with fault := some e }

/-! ## Words -/

/-- `x << lo` in a 32-bit word: a field in its place, as the rules write their words. -/
def place {n : Nat} (x : BitVec n) (lo : Nat) : Word := x.setWidth 32 <<< lo

/-- A bit in its place. -/
def placeBit (b : Bool) (i : Nat) : Word := place (BitVec.ofBool b) i

/-- The word is decoded as the instruction. -/
def isWord (w : Word) (i : Instr) : Prop := decodeWord w = .ok i

/-- Bits 19:0 of a 32-bit value (20_memory.md R65). -/
def low20 (v : Word) : Addr := v.extractLsb' 0 20

/-- An address as a 32-bit value. -/
def zext (a : Addr) : Word := a.zeroExtend 32

/-! ## What is left as it was -/

/-- Every general register but those listed. -/
def keepsRegs (s t : State) (except : List Reg) : Prop := ∀ r, r ∉ except → t.reg r = s.reg r

/-- Every byte of memory. -/
def keepsMemory (s t : State) : Prop := ∀ c : Addr, t.mem.readByte c = s.mem.readByte c

/-- The address is one of the `n` bytes from `a` on. -/
def isWithin (a : Addr) (n : Nat) (c : Addr) : Prop := ∃ k, k < n ∧ c = a + BitVec.ofNat 20 k

/-- Every byte of memory but the `n` from `a` on. -/
def keepsMemoryBut (s t : State) (a : Addr) (n : Nat) : Prop :=
  ∀ c : Addr, ¬ isWithin a n c → t.mem.readByte c = s.mem.readByte c

/-- `ssp`, the pending set, the terminal states and the arrivals to come. -/
def keepsSystem (s t : State) : Prop :=
  t.ssp = s.ssp ∧ t.pending = s.pending ∧ t.halted = s.halted ∧ t.fault = s.fault ∧ t.arrivals = s.arrivals

/-- The three devices, and the count of free values drawn for them. -/
def keepsDevices (s t : State) : Prop :=
  t.inQueue = s.inQueue ∧ t.output = s.output ∧ t.clock = s.clock ∧ t.draws = s.draws

/-- `SetFlags_N(x)` (10_state.md R31), and nothing else of `ms`: bits 31:3 are as they were. -/
def setsFlags {n : Nat} (x : BitVec n) (s t : State) : Prop :=
  t.ms = withFlagsOf x s.ms ∧ ∀ k, 3 ≤ k → t.ms.getLsbD k = s.ms.getLsbD k

/-- MI is set and every other bit of `ms` is as it was (10_state.md R33). -/
def setsMode (s t : State) : Prop := ∀ k, t.ms.getLsbD k = (decide (k = 16) || s.ms.getLsbD k)

/-- The machine goes from `s` to `t` by one event of the environment at most: the input queue may be longer, `pending`
may have more members, one entry of the tape of events is used up, and nothing else changes (70_reset_and_hazards.md
R301; assumption log 9). -/
def onlyReceives (s t : State) : Prop :=
  t = { s with inQueue := t.inQueue, pending := t.pending, arrivals := s.arrivals.tail } ∧ s.inQueue <+: t.inQueue ∧
    ∀ v ∈ s.pending, v ∈ t.pending

/-! ## Effects -/

/-- An access to the address is allowed: supervisor mode, or an address from 0x08000 up (20_memory.md R62). -/
def accessible (s : State) (a : Addr) : Prop := s.ms.getLsbD 16 = true ∨ 0x08000 ≤ a.toNat

/-- The machine goes from `s` to `t` by writing `v` to one register with the flags of `v`, and by nothing else. -/
def writesResult (s t : State) (dr : Reg) (v : Word) : Prop :=
  t.reg dr = v ∧ keepsRegs s t [dr] ∧ setsFlags v s t ∧ t.pc = s.pc ∧ keepsMemory s t ∧ keepsSystem s t ∧
    keepsDevices s t

/-- In every state the instruction completes, writing a value with its flags. -/
def givesResult (i : Instr) (dr : Reg) (v : State → Word) : Prop :=
  ∀ s, ∃ t, exec i s = .next t ∧ writesResult s t dr (v s)

/-- The machine goes from `s` to `t` by writing a 16-bit product to bits 15:0 of one register with the product's flags,
and by nothing else. -/
def writesProduct16 (s t : State) (dr : Reg) (p : BitVec 16) : Prop :=
  (t.reg dr).extractLsb' 0 16 = p ∧ (t.reg dr).extractLsb' 16 16 = (s.reg dr).extractLsb' 16 16 ∧
    keepsRegs s t [dr] ∧ setsFlags p s t ∧ t.pc = s.pc ∧ keepsMemory s t ∧ keepsSystem s t ∧ keepsDevices s t

/-- The register of a doubleword's high word: `(DR + 1) mod 8` (40_arithmetic.md R118). -/
def highReg (dr : Reg) : Reg := BitVec.ofNat 5 ((dr.toNat + 1) % 8)

/-- The machine goes from `s` to `t` by writing a 64-bit product to two registers with the product's flags, and by
nothing else. -/
def writesProduct64 (s t : State) (dr : Reg) (p : BitVec 64) : Prop :=
  t.reg dr = p.extractLsb' 0 32 ∧ t.reg (highReg dr) = p.extractLsb' 32 32 ∧ keepsRegs s t [dr, highReg dr] ∧
    setsFlags p s t ∧ t.pc = s.pc ∧ keepsMemory s t ∧ keepsSystem s t ∧ keepsDevices s t

/-- A load of `n` bytes that completes when it may, and raises the error of its access when it may not. A byte is never
misaligned, so for `n = 1` the second clause says nothing. -/
def loadsResult (i : Instr) (dr : Reg) (n : Nat) (addr : State → Addr) (v : State → Word) : Prop :=
  ∀ s,
    ((addr s).toNat % n = 0 → accessible s (addr s) → ∃ t, exec i s = .next t ∧ writesResult s t dr (v s)) ∧
    ((addr s).toNat % n ≠ 0 → exec i s = .next (raised s (.alignmentError (addr s) n))) ∧
    ((addr s).toNat % n = 0 → ¬ accessible s (addr s) → exec i s = .next (raised s (.protectionError (addr s))))

/-- The machine goes from `s` to `t` by storing the `n` low bytes of `v` from `a` on, the lowest first, and by nothing
else but what `regs` lists. The bytes read back where memory has its canonical form. -/
def storesBytes (s t : State) (a : Addr) (n : Nat) (v : Word) : Prop :=
  (s.mem.wf = true → ∀ k, k < n → t.mem.readByte (a + BitVec.ofNat 20 k) = v.extractLsb' (8 * k) 8) ∧
    keepsMemoryBut s t a n

/-- A store of `n` bytes that completes when it may, and raises the error of its access when it may not. A byte is never
misaligned, so for `n = 1` the second clause says nothing. -/
def storesRegister (i : Instr) (n : Nat) (addr : State → Addr) (sr : Reg) : Prop :=
  ∀ s,
    ((addr s).toNat % n = 0 → accessible s (addr s) →
      ∃ t, exec i s = .next t ∧ storesBytes s t (addr s) n (s.reg sr) ∧ keepsRegs s t [] ∧ t.ms = s.ms ∧
        t.pc = s.pc ∧ keepsSystem s t ∧ keepsDevices s t) ∧
    ((addr s).toNat % n ≠ 0 → exec i s = .next (raised s (.alignmentError (addr s) n))) ∧
    ((addr s).toNat % n = 0 → ¬ accessible s (addr s) → exec i s = .next (raised s (.protectionError (addr s))))

/-- R15 less 4, modulo 2^32: where a push moves the stack pointer. -/
def pushedSp (s : State) : Word := s.reg 15#5 - 4#32

/-- The state with R15 changed and nothing else. -/
def movedTo (s : State) (v : Word) : State := { s with regs := s.regs.set 15 v }

/-- The state after the decrement of a push and before its store (44_copy_stack.md R203). -/
def decremented (s : State) : State := movedTo s (pushedSp s)

/-- The machine goes from `s` to `t` by pushing the word `v`, and by nothing else but a change of `pc`. -/
def pushesWord (s t : State) (v : Word) : Prop :=
  t.reg 15#5 = pushedSp s ∧ keepsRegs s t [15#5] ∧ storesBytes s t (low20 (pushedSp s)) 4 v ∧ t.ms = s.ms ∧
    keepsSystem s t ∧ keepsDevices s t

/-- The push of the machine's next word passes its checks. -/
def mayPush (s : State) : Prop := (low20 (pushedSp s)).toNat % 4 = 0 ∧ accessible s (low20 (pushedSp s))

/-- What an instruction whose first act is a push does where the push does not pass its checks: R15 is decremented and
the error of the access is raised, alignment first. -/
def pushRaises (i : Instr) (s : State) : Prop :=
  ((low20 (pushedSp s)).toNat % 4 ≠ 0 →
    exec i s = .next (raised (decremented s) (.alignmentError (low20 (pushedSp s)) 4))) ∧
  ((low20 (pushedSp s)).toNat % 4 = 0 → ¬ accessible s (low20 (pushedSp s)) →
    exec i s = .next (raised (decremented s) (.protectionError (low20 (pushedSp s)))))

/-- A push instruction: the word stored is `v` of the state after the decrement. -/
def pushesValue (i : Instr) (v : State → Word) : Prop :=
  ∀ s, (mayPush s → ∃ t, exec i s = .next t ∧ pushesWord s t (v (decremented s)) ∧ t.pc = s.pc) ∧ pushRaises i s

/-- What an instruction whose first act is a read of `n` bytes at the stack pointer does where the read does not pass
its checks: nothing but the error. A byte is never misaligned, so for `n = 1` the first clause says nothing. -/
def popRaises (i : Instr) (n : Nat) (s : State) : Prop :=
  ((low20 (s.reg 15#5)).toNat % n ≠ 0 →
    exec i s = .next (raised s (.alignmentError (low20 (s.reg 15#5)) n))) ∧
  ((low20 (s.reg 15#5)).toNat % n = 0 → ¬ accessible s (low20 (s.reg 15#5)) →
    exec i s = .next (raised s (.protectionError (low20 (s.reg 15#5)))))

/-- A pop instruction of `n` bytes: `v` goes to the register, then 4 is added to R15 as it then is. -/
def popsValue (i : Instr) (dr : Reg) (n : Nat) (v : State → Word) : Prop :=
  ∀ s,
    ((low20 (s.reg 15#5)).toNat % n = 0 → accessible s (low20 (s.reg 15#5)) →
      ∃ t, exec i s = .next t ∧
        (dr = 15#5 → t.reg 15#5 = v s + 4#32) ∧
        (dr ≠ 15#5 → t.reg dr = v s ∧ t.reg 15#5 = s.reg 15#5 + 4#32) ∧
        keepsRegs s t [dr, 15#5] ∧ t.ms = s.ms ∧ t.pc = s.pc ∧ keepsMemory s t ∧ keepsSystem s t ∧
        keepsDevices s t) ∧
    popRaises i n s

/-- A transfer to an address: `pc` takes it if it is word-aligned; otherwise the alignment error is raised and nothing
else happens. -/
def transfers (i : Instr) (s : State) (a : Addr) : Prop :=
  (a.toNat % 4 = 0 → exec i s = .next { s with pc := a }) ∧
  (a.toNat % 4 ≠ 0 → exec i s = .next (raised s (.alignmentError a 4)))

/-- A subroutine call: the return address is pushed, then the transfer to `target` of the state after the push. -/
def calls (i : Instr) (target : State → Addr) : Prop :=
  ∀ s,
    (mayPush s →
      ((target (decremented s)).toNat % 4 = 0 →
        ∃ t, exec i s = .next t ∧ pushesWord s t (zext s.pc) ∧ t.pc = target (decremented s)) ∧
      ((target (decremented s)).toNat % 4 ≠ 0 →
        ∃ t, exec i s = .next (raised t (.alignmentError (target (decremented s)) 4)) ∧
          pushesWord s t (zext s.pc) ∧ t.pc = s.pc)) ∧
    pushRaises i s

/-- The address a CALL instruction transfers to, in the state its target is formed in (42_control.md R157 to R159). -/
def callTarget (s : State) : Instr → Option Addr
  | .callA addr20 => some addr20
  | .callR sr => some (low20 (s.reg sr))
  | .callX sr1 sr2 => some (low20 (s.reg sr1 + s.reg sr2))
  | _ => none

/-- The word at an address, from its four bytes (20_memory.md R51). -/
def wordAt (s : State) (a : Addr) : Word :=
  s.mem.readByte (a + 3#20) ++ s.mem.readByte (a + 2#20) ++ s.mem.readByte (a + 1#20) ++ s.mem.readByte a

/-- The machine goes from `s` to `t` by storing a frame of words below `top` on a stack, the first word highest: R15
ends at the last word, and no other register and no other byte changes. -/
def leavesFrame (s t : State) (top : Word) (words : List Word) : Prop :=
  t.reg 15#5 = top - BitVec.ofNat 32 (4 * words.length) ∧ keepsRegs s t [15#5] ∧
    (s.mem.wf = true → ∀ k (h : k < words.length),
      wordAt t (low20 (top - BitVec.ofNat 32 (4 * (k + 1)))) = words[k]) ∧
    keepsMemoryBut s t (low20 (top - BitVec.ofNat 32 (4 * words.length))) (4 * words.length)

/-- What an instruction that pops an address and transfers to it gives once the pop is made: R15 is 4 higher and `pc`
takes the address if it is word-aligned; otherwise its error is raised with R15 moved and nothing else changed. -/
def transfersAfterPop (s : State) (r : Result) (a : Addr) : Prop :=
  (a.toNat % 4 = 0 → r = .next { movedTo s (s.reg 15#5 + 4#32) with pc := a }) ∧
  (a.toNat % 4 ≠ 0 → r = .next (raised (movedTo s (s.reg 15#5 + 4#32)) (.alignmentError a 4)))

/-- The machine goes from `s` to `t` by entering supervisor mode: a frame is left on a stack, MI is set and every other
bit of `ms` is kept, and nothing else changes but `pc`. -/
def entersMode (s t : State) (top : Word) (words : List Word) : Prop :=
  leavesFrame s t top words ∧ setsMode s t ∧ keepsSystem s t ∧ keepsDevices s t

/-- What an entry through a table entry gives, on the stack at `top`: the frame, then the handler's address in `pc`; if
that address is not word-aligned, its error with the frame left and `pc` as it was; if the stack is not word-aligned,
the error of the first push with nothing but R15 moved. -/
def entersThrough (s : State) (r : Result) (top : Word) (words : List Word) (handler : Addr) : Prop :=
  ((low20 top).toNat % 4 = 0 → handler.toNat % 4 = 0 →
    ∃ t, r = .next t ∧ entersMode s t top words ∧ t.pc = handler) ∧
  ((low20 top).toNat % 4 = 0 → handler.toNat % 4 ≠ 0 →
    ∃ t, r = .next (raised t (.alignmentError handler 4)) ∧ entersMode s t top words ∧ t.pc = s.pc) ∧
  ((low20 top).toNat % 4 ≠ 0 →
    r = .next (raised (movedTo s (top - 4#32)) (.alignmentError (low20 (top - 4#32)) 4)))

/-- What the service of a vector gives from `u`, the state it is taken out of the pending set in (60_exceptions.md
R255): nothing more where its entry is disabled; otherwise an entry through it, in user mode on the supervisor stack
with R15 in the frame, in supervisor mode on the current stack. -/
def servesThrough (u : State) (r : Result) (entry : Word) : Prop :=
  (entry.getLsbD 31 = false → r = .next u) ∧
  (entry.getLsbD 31 = true → u.ms.getLsbD 16 = false →
    entersThrough u r (zext u.ssp) [u.reg 15#5, u.ms, zext u.pc] (low20 entry)) ∧
  (entry.getLsbD 31 = true → u.ms.getLsbD 16 = true →
    entersThrough u r (u.reg 15#5) [u.ms, zext u.pc] (low20 entry))

/-- A read of port `p` by an IN instruction: the immediate form, or the register form with `p` in bits 7:0. -/
def readsPort (i : Instr) (dr : Reg) (p : Port) (s : State) : Prop :=
  i = .inI dr p ∨ ∃ sr, i = .inR dr sr ∧ (s.reg sr).extractLsb' 0 8 = p

/-- The machine goes from `s` to `t` by an IN to the register, the devices apart: the flags are those of the register's
new value, and no other register, no memory and no system state changes. -/
def inputsTo (s t : State) (dr : Reg) : Prop :=
  keepsRegs s t [dr] ∧ setsFlags (t.reg dr) s t ∧ t.pc = s.pc ∧ keepsMemory s t ∧ keepsSystem s t ∧
    t.output = s.output

/-- A write of port `p` by an OUT instruction: the immediate form, or the register form with `p` in bits 7:0. -/
def writesPort (i : Instr) (sr : Reg) (p : Port) (s : State) : Prop :=
  i = .outI p sr ∨ ∃ dr, i = .outR dr sr ∧ (s.reg dr).extractLsb' 0 8 = p

/-- The instructions that leave ZF, PF and NF as they are (10_state.md R32). -/
def leavesFlags : Instr → Bool
  | .jcA _ _ _ _ | .jcR _ _ _ _ | .jcX _ _ _ _ _ | .jmpA _ | .jmpR _ | .jmpX _ _ => true
  | .callA _ | .callR _ | .callX _ _ | .scl _ | .ret => true
  | .stbA _ _ | .stbR _ _ | .stbX _ _ _ | .stsA _ _ | .stsR _ _ | .stsX _ _ _ => true
  | .stwA _ _ | .stwR _ _ | .stwX _ _ _ | .cpy _ _ | .cpyi _ _ | .cpyu _ _ => true
  | .pushi _ | .pushu _ | .pushb _ | .pushs _ | .pushw _ | .popb _ | .pops _ | .popw _ => true
  | .outR _ _ | .outI _ _ | .ssspA _ | .ssspR _ | .halt => true
  | _ => false

/-- The instructions whose rules write no memory: all but the stores (43_load_store.md R181 to R189), the pushes
(44_copy_stack.md R203 to R208), CALL and SCL (42_control.md R157 to R160). -/
def storesNothing : Instr → Bool
  | .stbA _ _ | .stbR _ _ | .stbX _ _ _ | .stsA _ _ | .stsR _ _ | .stsX _ _ _ => false
  | .stwA _ _ | .stwR _ _ | .stwX _ _ _ | .callA _ | .callR _ | .callX _ _ | .scl _ => false
  | .pushi _ | .pushu _ | .pushb _ | .pushs _ | .pushw _ => false
  | _ => true

/-- The privileged instructions (45_system_io.md R220). -/
def isPrivileged : Instr → Bool
  | .inR _ _ | .inI _ _ | .outR _ _ | .outI _ _ | .ssspA _ | .ssspR _ | .halt | .reti => true
  | _ => false

/-- The two states differ at most in the bytes of the protected address space, 0x00000 to 0x07fff. -/
def agreeOutsideProtected (s t : State) : Prop :=
  (∀ r, s.reg r = t.reg r) ∧ s.pc = t.pc ∧ s.ms = t.ms ∧ s.ssp = t.ssp ∧ s.pending = t.pending ∧
    s.halted = t.halted ∧ s.fault = t.fault ∧ s.inQueue = t.inQueue ∧ s.output = t.output ∧ s.clock = t.clock ∧
    s.draws = t.draws ∧ s.arrivals = t.arrivals ∧
    ∀ a : Addr, 0x08000 ≤ a.toNat → s.mem.readByte a = t.mem.readByte a

end Sys2Proof.Machine
end

