-- ==== Sys2Proof/Certificates/Slice0/Obligations.lean ====
section
/-! DEFINITION. Certificates/Slice0/Obligations.lean: the statements for the provers, in the order of OBLIGATIONS.json.
Each docstring names the rules of spec/ the statement formalises, and the decision or log entry it rests on. -/

open Sys2Proof Sys2Proof.Machine

/-- Every well-formed instruction, with every value of every operand, is decoded from its own word and from its own
bytes (formats R82 to R94; the places of CPY and the Reserved bits of CMP-R are log 17 and log 28). -/
def Obligations.DecodeInvertsEncode : Prop :=
  ∀ i : Instr, i.WellFormed →
    isWord (encode i) i ∧ ∀ rest : List Byte, decode (encodeBytes i ++ rest) = .ok (i, rest)

/-- No bit of an instruction word is ignored: a word that decodes is exactly the encoding of the instruction (R102).
That a nonzero Reserved bit makes a word no instruction is the spec's decision D3, log 3. -/
def Obligations.EncodeInvertsDecode : Prop :=
  ∀ (w : Word) (i : Instr), decodeWord w = .ok i → i.WellFormed ∧ encode i = w

/-- The eight unassigned major opcodes and the unassigned selector values of R97. That they are no instructions is the
spec's decision D2, log 3. -/
def Obligations.UnassignedWordsRejected : Prop :=
  ∀ w : Word,
    (field w 27 5 ∈ [0b00001#5, 0b00111#5, 0b01100#5, 0b10010#5, 0b10011#5, 0b10100#5, 0b11001#5, 0b11010#5] →
      decodeWord w = .error .unassignedOpcode) ∧
    (field w 27 5 = 0b00010#5 → field w 16 2 = 0b01#2 → decodeWord w = .error .unassignedSelector) ∧
    (field w 27 5 = 0b01111#5 → field w 24 2 = 0b00#2 → decodeWord w = .error .unassignedSelector) ∧
    (field w 27 5 = 0b10000#5 → field w 25 2 = 0b01#2 → decodeWord w = .error .unassignedSelector) ∧
    (field w 27 5 = 0b11111#5 → field w 24 3 = 0b100#3 → decodeWord w = .error .unassignedSelector) ∧
    (field w 27 5 ∈ [0b10111#5, 0b01001#5, 0b01010#5, 0b01011#5] → field w 20 2 = 0b11#2 →
      decodeWord w = .error .unassignedSelector) ∧
    (field w 27 5 = 0b01000#5 → field w 26 1 = 0b0#1 → field w 20 2 = 0b11#2 →
      decodeWord w = .error .unassignedSelector) ∧
    (field w 27 5 ∈ [0b11100#5, 0b11101#5, 0b11110#5] → field w 25 2 = 0b11#2 →
      decodeWord w = .error .unassignedSelector)

/-- Words that the rules give as worked examples, one or more for each family. -/
def Obligations.SampleWordsDecode : Prop :=
  isWord 0x20440003#32 (.addR 1 2 3) ∧ isWord 0x2109ffff#32 (.addI 4 4 0xffff#16) ∧
  isWord 0x7b0008a4#32 (.mulwi 2 5 4) ∧ isWord 0xd805000a#32 (.cmpI 2 10#16) ∧
  isWord 0x800008bf#32 (.shflI 1 2 31#5) ∧ isWord 0xb0000022#32 (.not 1 2) ∧
  isWord 0xbc200064#32 (.jcX true false false 3 4) ∧ isWord 0xbf000300#32 (.jmpA 0x00300#20) ∧
  isWord 0x44000003#32 (.scl 3#6) ∧ isWord 0x1c000000#32 .reti ∧
  isWord 0x48600043#32 (.ldbX 1 2 3) ∧ isWord 0xf0004081#32 (.stwA 0x00204#20 1) ∧
  isWord 0x10068000#32 (.cpyi 1 0x8000#16) ∧ isWord 0xff00001f#32 (.popw 31) ∧
  isWord 0x74002181#32 (.outI 12#8 1) ∧ isWord 0x30007000#32 (.ssspA 0x07000#20)

/-- R31 at every width. That a flag is cleared when its condition does not hold and that the value is read as signed are
the spec's decision D6, log 14. -/
def Obligations.SetFlagsReading : Prop :=
  ∀ (n : Nat) (x : BitVec n) (ms : Word),
    zeroFlag (withFlagsOf x ms) = decide (x.toInt = 0) ∧ positiveFlag (withFlagsOf x ms) = decide (0 < x.toInt) ∧
    negativeFlag (withFlagsOf x ms) = decide (x.toInt < 0) ∧
    (zeroFlag (withFlagsOf x ms)).toNat + (positiveFlag (withFlagsOf x ms)).toNat +
      (negativeFlag (withFlagsOf x ms)).toNat = 1 ∧
    ∀ k, 3 ≤ k → (withFlagsOf x ms).getLsbD k = ms.getLsbD k

/-- R111 to R114, whole: the word of each form, the value written, the flags, no error, and both sources read before the
destination is written. `SetFlags` is R31 and is stated by `SetFlagsReading`. -/
def Obligations.AddAndSubtract : Prop :=
  ∀ (dr sr1 sr2 : Reg) (imm16 : BitVec 16),
    isWord (0x20000000#32 ||| place dr 22 ||| place sr1 17 ||| place sr2 0) (.addR dr sr1 sr2) ∧
    givesResult (.addR dr sr1 sr2) dr (fun s => BitVec.ofNat 32 ((s.reg sr1).toNat + (s.reg sr2).toNat)) ∧
    isWord (0x20010000#32 ||| place dr 22 ||| place sr1 17 ||| place imm16 0) (.addI dr sr1 imm16) ∧
    givesResult (.addI dr sr1 imm16) dr (fun s => BitVec.ofInt 32 ((s.reg sr1).toInt + imm16.toInt)) ∧
    isWord (0x00000000#32 ||| place dr 22 ||| place sr1 17 ||| place sr2 0) (.subR dr sr1 sr2) ∧
    givesResult (.subR dr sr1 sr2) dr (fun s => BitVec.ofInt 32 ((s.reg sr1).toInt - (s.reg sr2).toInt)) ∧
    isWord (0x00010000#32 ||| place dr 22 ||| place sr1 17 ||| place imm16 0) (.subI dr sr1 imm16) ∧
    givesResult (.subI dr sr1 imm16) dr (fun s => BitVec.ofInt 32 ((s.reg sr1).toInt - imm16.toInt))

/-- R116 and R119, whole. The product is exact: it is the integer product, not one modulo 2^16. -/
def Obligations.ByteMultiplies : Prop :=
  ∀ dr sr1 sr2 : Reg,
    isWord (0x79000000#32 ||| place dr 10 ||| place sr1 5 ||| place sr2 0) (.mulbi dr sr1 sr2) ∧
    (∀ s, ∃ (p : BitVec 16) (t : State), p.toInt = ((s.reg sr1).extractLsb' 0 8).toInt * ((s.reg sr2).extractLsb' 0 8).toInt ∧
      exec (.mulbi dr sr1 sr2) s = .next t ∧ writesProduct16 s t dr p) ∧
    isWord (0x7d000000#32 ||| place dr 10 ||| place sr1 5 ||| place sr2 0) (.mulbu dr sr1 sr2) ∧
    (∀ s, ∃ (p : BitVec 16) (t : State), p.toNat = ((s.reg sr1).extractLsb' 0 8).toNat * ((s.reg sr2).extractLsb' 0 8).toNat ∧
      exec (.mulbu dr sr1 sr2) s = .next t ∧ writesProduct16 s t dr p)

/-- R117 and R120, whole. -/
def Obligations.ShortMultiplies : Prop :=
  ∀ dr sr1 sr2 : Reg,
    isWord (0x7a000000#32 ||| place dr 10 ||| place sr1 5 ||| place sr2 0) (.mulsi dr sr1 sr2) ∧
    (∀ s, ∃ (p : BitVec 32) (t : State), p.toInt = ((s.reg sr1).extractLsb' 0 16).toInt * ((s.reg sr2).extractLsb' 0 16).toInt ∧
      exec (.mulsi dr sr1 sr2) s = .next t ∧ writesResult s t dr p) ∧
    isWord (0x7e000000#32 ||| place dr 10 ||| place sr1 5 ||| place sr2 0) (.mulsu dr sr1 sr2) ∧
    (∀ s, ∃ (p : BitVec 32) (t : State), p.toNat = ((s.reg sr1).extractLsb' 0 16).toNat * ((s.reg sr2).extractLsb' 0 16).toNat ∧
      exec (.mulsu dr sr1 sr2) s = .next t ∧ writesResult s t dr p)

/-- R118 and R121, whole: the pair is DR and (DR + 1) mod 8, for every DR (log 19), and the two never coincide. -/
def Obligations.WordMultiplies : Prop :=
  ∀ dr sr1 sr2 : Reg, highReg dr ≠ dr ∧
    isWord (0x7b000000#32 ||| place dr 10 ||| place sr1 5 ||| place sr2 0) (.mulwi dr sr1 sr2) ∧
    (∀ s, ∃ (p : BitVec 64) (t : State), p.toInt = (s.reg sr1).toInt * (s.reg sr2).toInt ∧
      exec (.mulwi dr sr1 sr2) s = .next t ∧ writesProduct64 s t dr p) ∧
    isWord (0x7f000000#32 ||| place dr 10 ||| place sr1 5 ||| place sr2 0) (.mulwu dr sr1 sr2) ∧
    (∀ s, ∃ (p : BitVec 64) (t : State), p.toNat = (s.reg sr1).toNat * (s.reg sr2).toNat ∧
      exec (.mulwu dr sr1 sr2) s = .next t ∧ writesProduct64 s t dr p)

/-- R122 to R124, whole: NEG with its result, CMP with nothing but `ms` changed. -/
def Obligations.NegateAndCompare : Prop :=
  ∀ (dr sr sr1 sr2 : Reg) (imm16 : BitVec 16),
    isWord (0xc0000000#32 ||| place dr 5 ||| place sr 0) (.neg dr sr) ∧
    givesResult (.neg dr sr) dr (fun s => BitVec.ofInt 32 (- (s.reg sr).toInt)) ∧
    isWord (0xd8000000#32 ||| place sr1 17 ||| place sr2 0) (.cmpR sr1 sr2) ∧
    (∀ s, ∃ (v : Word) (t : State), v = BitVec.ofInt 32 ((s.reg sr1).toInt - (s.reg sr2).toInt) ∧
      exec (.cmpR sr1 sr2) s = .next t ∧ setsFlags v s t ∧ t = { s with ms := t.ms }) ∧
    isWord (0xd8010000#32 ||| place sr1 17 ||| place imm16 0) (.cmpI sr1 imm16) ∧
    (∀ s, ∃ (v : Word) (t : State), v = BitVec.ofInt 32 ((s.reg sr1).toInt - imm16.toInt) ∧
      exec (.cmpI sr1 imm16) s = .next t ∧ setsFlags v s t ∧ t = { s with ms := t.ms })

/-- R131 to R137, whole. NOT is given by the equation its rule gives, 0xffffffff - x[SR]. -/
def Obligations.LogicIsBitwise : Prop :=
  ∀ (dr sr sr1 sr2 : Reg) (imm16 : BitVec 16),
    isWord (0x28000000#32 ||| place dr 22 ||| place sr1 17 ||| place sr2 0) (.andR dr sr1 sr2) ∧
    givesResult (.andR dr sr1 sr2) dr (fun s => s.reg sr1 &&& s.reg sr2) ∧
    isWord (0x28010000#32 ||| place dr 22 ||| place sr1 17 ||| place imm16 0) (.andI dr sr1 imm16) ∧
    givesResult (.andI dr sr1 imm16) dr (fun s => s.reg sr1 &&& imm16.signExtend 32) ∧
    isWord (0x68000000#32 ||| place dr 22 ||| place sr1 17 ||| place sr2 0) (.orR dr sr1 sr2) ∧
    givesResult (.orR dr sr1 sr2) dr (fun s => s.reg sr1 ||| s.reg sr2) ∧
    isWord (0x68010000#32 ||| place dr 22 ||| place sr1 17 ||| place imm16 0) (.orI dr sr1 imm16) ∧
    givesResult (.orI dr sr1 imm16) dr (fun s => s.reg sr1 ||| imm16.signExtend 32) ∧
    isWord (0xb0000000#32 ||| place dr 5 ||| place sr 0) (.not dr sr) ∧
    givesResult (.not dr sr) dr (fun s => 0xffffffff#32 - s.reg sr) ∧
    isWord (0xa8000000#32 ||| place dr 22 ||| place sr1 17 ||| place sr2 0) (.xorR dr sr1 sr2) ∧
    givesResult (.xorR dr sr1 sr2) dr (fun s => s.reg sr1 ^^^ s.reg sr2) ∧
    isWord (0xa8010000#32 ||| place dr 22 ||| place sr1 17 ||| place imm16 0) (.xorI dr sr1 imm16) ∧
    givesResult (.xorI dr sr1 imm16) dr (fun s => s.reg sr1 ^^^ imm16.signExtend 32)

/-- R139 to R144, whole, as the arithmetic of each rule. That the register count is not masked is also the spec's
decision D7, log 15; R139, R141 and R143 state the values themselves. -/
def Obligations.ShiftsByWholeCount : Prop :=
  ∀ (dr sr1 sr2 : Reg) (imm5 : BitVec 5),
    isWord (0x80000000#32 ||| place dr 11 ||| place sr1 6 ||| place sr2 0) (.shflR dr sr1 sr2) ∧
    givesResult (.shflR dr sr1 sr2) dr (fun s => if (s.reg sr2).toNat < 32 then BitVec.ofNat 32 ((s.reg sr1).toNat * 2 ^ (s.reg sr2).toNat) else 0#32) ∧
    isWord (0x80000020#32 ||| place dr 11 ||| place sr1 6 ||| place imm5 0) (.shflI dr sr1 imm5) ∧
    givesResult (.shflI dr sr1 imm5) dr (fun s => BitVec.ofNat 32 ((s.reg sr1).toNat * 2 ^ imm5.toNat)) ∧
    isWord (0x84000000#32 ||| place dr 11 ||| place sr1 6 ||| place sr2 0) (.shfrzR dr sr1 sr2) ∧
    givesResult (.shfrzR dr sr1 sr2) dr (fun s => if (s.reg sr2).toNat < 32 then BitVec.ofNat 32 ((s.reg sr1).toNat / 2 ^ (s.reg sr2).toNat) else 0#32) ∧
    isWord (0x84000020#32 ||| place dr 11 ||| place sr1 6 ||| place imm5 0) (.shfrzI dr sr1 imm5) ∧
    givesResult (.shfrzI dr sr1 imm5) dr (fun s => BitVec.ofNat 32 ((s.reg sr1).toNat / 2 ^ imm5.toNat)) ∧
    isWord (0x86000000#32 ||| place dr 11 ||| place sr1 6 ||| place sr2 0) (.shfraR dr sr1 sr2) ∧
    givesResult (.shfraR dr sr1 sr2) dr (fun s => BitVec.ofInt 32 ((s.reg sr1).toInt / 2 ^ min (s.reg sr2).toNat 32)) ∧
    isWord (0x86000020#32 ||| place dr 11 ||| place sr1 6 ||| place imm5 0) (.shfraI dr sr1 imm5) ∧
    givesResult (.shfraI dr sr1 imm5) dr (fun s => BitVec.ofInt 32 ((s.reg sr1).toInt / 2 ^ imm5.toNat))

/-- R150 to R152. That the error makes the machine Faulted is the spec's decision D1, log 1; the word with n = p = z = 1
is JMP (R102, log 21). -/
def Obligations.ConditionalJumps : Prop :=
  ∀ (n p z : Bool) (addr20 : Addr) (sr sr1 sr2 : Reg),
    ((n && p && z) = false →
      isWord (0xb8000000#32 ||| placeBit n 26 ||| placeBit p 25 ||| placeBit z 24 ||| place addr20 0) (.jcA n p z addr20) ∧
      isWord (0xb8100000#32 ||| placeBit n 26 ||| placeBit p 25 ||| placeBit z 24 ||| place sr 0) (.jcR n p z sr) ∧
      isWord (0xb8200000#32 ||| placeBit n 26 ||| placeBit p 25 ||| placeBit z 24 ||| place sr1 5 ||| place sr2 0) (.jcX n p z sr1 sr2)) ∧
    ∀ s : State,
      ((n = true ∧ s.ms.getLsbD 2 = true) ∨ (p = true ∧ s.ms.getLsbD 1 = true) ∨ (z = true ∧ s.ms.getLsbD 0 = true) →
        transfers (.jcA n p z addr20) s addr20 ∧ transfers (.jcR n p z sr) s (low20 (s.reg sr)) ∧
        transfers (.jcX n p z sr1 sr2) s (low20 (s.reg sr1 + s.reg sr2))) ∧
      (¬ ((n = true ∧ s.ms.getLsbD 2 = true) ∨ (p = true ∧ s.ms.getLsbD 1 = true) ∨
          (z = true ∧ s.ms.getLsbD 0 = true)) →
        exec (.jcA n p z addr20) s = .next s ∧ exec (.jcR n p z sr) s = .next s ∧
        exec (.jcX n p z sr1 sr2) s = .next s)

/-- R154 to R156. That the error makes the machine Faulted is the spec's decision D1, log 1. -/
def Obligations.UnconditionalJumps : Prop :=
  ∀ (addr20 : Addr) (sr sr1 sr2 : Reg),
    isWord (0xbf000000#32 ||| place addr20 0) (.jmpA addr20) ∧ isWord (0xbf100000#32 ||| place sr 0) (.jmpR sr) ∧
    isWord (0xbf200000#32 ||| place sr1 5 ||| place sr2 0) (.jmpX sr1 sr2) ∧
    ∀ s : State, transfers (.jmpA addr20) s addr20 ∧ transfers (.jmpR sr) s (low20 (s.reg sr)) ∧
      transfers (.jmpX sr1 sr2) s (low20 (s.reg sr1 + s.reg sr2))

/-- R157 to R159. Reading the target after the push is the spec's decision D27, log 24; the Faulted machine is D1, log
1; the effects of the statements before the error stand by D23, log 2. -/
def Obligations.SubroutineCalls : Prop :=
  ∀ (addr20 : Addr) (sr sr1 sr2 : Reg),
    isWord (0x40000000#32 ||| place addr20 0) (.callA addr20) ∧ isWord (0x40100000#32 ||| place sr 0) (.callR sr) ∧
    isWord (0x40200000#32 ||| place sr1 5 ||| place sr2 0) (.callX sr1 sr2) ∧
    calls (.callA addr20) (fun _ => addr20) ∧ calls (.callR sr) (fun s => low20 (s.reg sr)) ∧
    calls (.callX sr1 sr2) (fun s => low20 (s.reg sr1 + s.reg sr2))

/-- R160 and R262, in either mode. The exemption from protection is the spec's decision D4, log 12; the unconditional
stack switch D32, log 25; the Faulted machine D1, log 1; what stands at an error D23, log 2; bits 30:20 of the entry
D26, log 23. -/
def Obligations.SystemCallEntry : Prop :=
  ∀ imm6 : BitVec 6,
    isWord (0x44000000#32 ||| place imm6 0) (.scl imm6) ∧
    ∀ s : State,
      ((wordAt s (BitVec.ofNat 20 (0x00100 + 4 * imm6.toNat))).getLsbD 31 = false →
        exec (.scl imm6) s = .next (raised s (.sctDisabled imm6))) ∧
      ((wordAt s (BitVec.ofNat 20 (0x00100 + 4 * imm6.toNat))).getLsbD 31 = true →
        entersThrough s (exec (.scl imm6) s) (zext s.ssp) [s.reg 15#5, s.ms, zext s.pc]
          (low20 (wordAt s (BitVec.ofNat 20 (0x00100 + 4 * imm6.toNat)))))

/-- R162. The Faulted machine is the spec's decision D1, log 1; what stands at the error D23, log 2. -/
def Obligations.SubroutineReturn : Prop :=
  isWord 0x18000000#32 .ret ∧
  ∀ s : State,
    ((low20 (s.reg 15#5)).toNat % 4 = 0 → accessible s (low20 (s.reg 15#5)) →
      transfersAfterPop s (exec .ret s) (low20 (wordAt s (low20 (s.reg 15#5))))) ∧
    popRaises .ret 4 s

/-- R163. The unchecked read of the saved R15 is the spec's decision D4, log 12; keeping reserved bits D21, log 23; the
privilege check first D30, log 22; the Faulted machine D1, log 1. -/
def Obligations.HandlerReturn : Prop :=
  isWord 0x1c000000#32 .reti ∧
  ∀ s : State,
    (s.ms.getLsbD 16 = false → exec .reti s = .next (raised s .privilegeViolation)) ∧
    (s.ms.getLsbD 16 = true →
      ((low20 (s.reg 15#5)).toNat % 4 ≠ 0 →
        exec .reti s = .next (raised s (.alignmentError (low20 (s.reg 15#5)) 4))) ∧
      ((low20 (s.reg 15#5)).toNat % 4 = 0 → (low20 (wordAt s (low20 (s.reg 15#5)))).toNat % 4 ≠ 0 →
        exec .reti s = .next (raised (movedTo s (s.reg 15#5 + 4#32))
          (.alignmentError (low20 (wordAt s (low20 (s.reg 15#5)))) 4))) ∧
      ((low20 (s.reg 15#5)).toNat % 4 = 0 → (low20 (wordAt s (low20 (s.reg 15#5)))).toNat % 4 = 0 →
        ∃ t, exec .reti s = .next t ∧ t.pc = low20 (wordAt s (low20 (s.reg 15#5))) ∧
          t.ms = wordAt s (low20 (s.reg 15#5 + 4#32)) ∧
          t.reg 15#5 = (if t.ms.getLsbD 16 then s.reg 15#5 + 8#32 else wordAt s (low20 (s.reg 15#5 + 8#32))) ∧
          keepsRegs s t [15#5] ∧ keepsMemory s t ∧ keepsSystem s t ∧ keepsDevices s t))

/-- R157 to R159 and R162: CALL then RET leaves R15 as it was, and the return address is the one pushed. Reading the
target after the push is the spec's decision D27, log 24. -/
def Obligations.CallThenReturn : Prop :=
  ∀ (s : State) (i : Instr) (target : Addr), callTarget (decremented s) i = some target → s.mem.wf = true →
    s.pc.toNat % 4 = 0 → target.toNat % 4 = 0 → mayPush s →
    ∃ t u, exec i s = .next t ∧ t.pc = target ∧ exec .ret t = .next u ∧ u.pc = s.pc ∧ keepsRegs s u [] ∧ u.ms = s.ms ∧
      keepsSystem s u ∧ keepsDevices s u ∧ keepsMemoryBut s u (low20 (pushedSp s)) 4

/-- R160, R163, R263 and R264 together. It rests on the spec's decision D4 (log 12) for the accesses outside protection. -/
def Obligations.SystemCallThenReturn : Prop :=
  ∀ (s t : State) (imm6 : BitVec 6), s.mem.wf = true → s.ms.getLsbD 16 = false → s.pc.toNat % 4 = 0 →
    s.ssp.toNat % 4 = 0 → (wordAt s (BitVec.ofNat 20 (0x00100 + 4 * imm6.toNat))).getLsbD 31 = true →
    (low20 (wordAt s (BitVec.ofNat 20 (0x00100 + 4 * imm6.toNat)))).toNat % 4 = 0 →
    exec (.scl imm6) s = .next t →
    t.ms.getLsbD 16 = true ∧
    ∃ u, exec .reti t = .next u ∧ u.pc = s.pc ∧ u.ms = s.ms ∧ keepsRegs s u [] ∧ keepsSystem s u ∧
      keepsDevices s u ∧ keepsMemoryBut s u (low20 (zext s.ssp - 12#32)) 12

/-- R253, R255, R263 and R264 together. It rests on the spec's decisions D4 (log 12) and D12 (log 10). -/
def Obligations.InterruptThenReturn : Prop :=
  ∀ (s t : State) (v : Vect), s.Running → s.arrivals = [] → s.pending = [v] → s.mem.wf = true → s.pc.toNat % 4 = 0 →
    (if s.ms.getLsbD 16 then low20 (s.reg 15#5) else s.ssp).toNat % 4 = 0 →
    (wordAt s (BitVec.ofNat 20 (4 * v.val))).getLsbD 31 = true →
    (low20 (wordAt s (BitVec.ofNat 20 (4 * v.val)))).toNat % 4 = 0 →
    step s = .next t →
    ∃ u, exec .reti t = .next u ∧ u.pc = s.pc ∧ u.ms = s.ms ∧ keepsRegs s u [] ∧ u.ssp = s.ssp ∧ u.pending = [] ∧
      u.halted = false ∧ u.fault = none ∧ keepsDevices s u ∧
      (if s.ms.getLsbD 16 then keepsMemoryBut s u (low20 (s.reg 15#5 - 8#32)) 8
       else keepsMemoryBut s u (low20 (zext s.ssp - 12#32)) 12)

/-- R171 to R173. Where the access fails its checks, the error and nothing else: that the machine is then Faulted is the
spec's decision D1, log 1; alignment before protection D20, log 22; the width of the opcode 90_conflicts.md C2, log
18. -/
def Obligations.LoadBytes : Prop :=
  ∀ (dr sr sr1 sr2 : Reg) (addr20 : Addr),
    isWord (0x48000000#32 ||| place dr 22 ||| place addr20 0) (.ldbA dr addr20) ∧
    loadsResult (.ldbA dr addr20) dr 1 (fun _ => addr20)
      (fun s => (s.mem.readByte addr20).signExtend 32) ∧
    isWord (0x48100000#32 ||| place dr 22 ||| place sr 0) (.ldbR dr sr) ∧
    loadsResult (.ldbR dr sr) dr 1 (fun s => low20 (s.reg sr))
      (fun s => (s.mem.readByte (low20 (s.reg sr))).signExtend 32) ∧
    isWord (0x48200000#32 ||| place dr 22 ||| place sr1 5 ||| place sr2 0) (.ldbX dr sr1 sr2) ∧
    loadsResult (.ldbX dr sr1 sr2) dr 1 (fun s => low20 (s.reg sr1 + s.reg sr2))
      (fun s => (s.mem.readByte (low20 (s.reg sr1 + s.reg sr2))).signExtend 32)

/-- R174 to R176. Where the access fails its checks, the error and nothing else: that the machine is then Faulted is the
spec's decision D1, log 1; alignment before protection D20, log 22; the width of the opcode 90_conflicts.md C2, log
18. -/
def Obligations.LoadShorts : Prop :=
  ∀ (dr sr sr1 sr2 : Reg) (addr20 : Addr),
    isWord (0x50000000#32 ||| place dr 22 ||| place addr20 0) (.ldsA dr addr20) ∧
    loadsResult (.ldsA dr addr20) dr 2 (fun _ => addr20)
      (fun s => (s.mem.readByte (addr20 + 1#20) ++ s.mem.readByte addr20).signExtend 32) ∧
    isWord (0x50100000#32 ||| place dr 22 ||| place sr 0) (.ldsR dr sr) ∧
    loadsResult (.ldsR dr sr) dr 2 (fun s => low20 (s.reg sr))
      (fun s => (s.mem.readByte ((low20 (s.reg sr)) + 1#20) ++ s.mem.readByte (low20 (s.reg sr))).signExtend 32) ∧
    isWord (0x50200000#32 ||| place dr 22 ||| place sr1 5 ||| place sr2 0) (.ldsX dr sr1 sr2) ∧
    loadsResult (.ldsX dr sr1 sr2) dr 2 (fun s => low20 (s.reg sr1 + s.reg sr2))
      (fun s => (s.mem.readByte ((low20 (s.reg sr1 + s.reg sr2)) + 1#20) ++ s.mem.readByte (low20 (s.reg sr1 + s.reg sr2))).signExtend 32)

/-- R177 to R179. Where the access fails its checks, the error and nothing else: that the machine is then Faulted is the
spec's decision D1, log 1; alignment before protection D20, log 22; the width of the opcode 90_conflicts.md C2, log
18. -/
def Obligations.LoadWords : Prop :=
  ∀ (dr sr sr1 sr2 : Reg) (addr20 : Addr),
    isWord (0x58000000#32 ||| place dr 22 ||| place addr20 0) (.ldwA dr addr20) ∧
    loadsResult (.ldwA dr addr20) dr 4 (fun _ => addr20)
      (fun s => wordAt s addr20) ∧
    isWord (0x58100000#32 ||| place dr 22 ||| place sr 0) (.ldwR dr sr) ∧
    loadsResult (.ldwR dr sr) dr 4 (fun s => low20 (s.reg sr))
      (fun s => wordAt s (low20 (s.reg sr))) ∧
    isWord (0x58200000#32 ||| place dr 22 ||| place sr1 5 ||| place sr2 0) (.ldwX dr sr1 sr2) ∧
    loadsResult (.ldwX dr sr1 sr2) dr 4 (fun s => low20 (s.reg sr1 + s.reg sr2))
      (fun s => wordAt s (low20 (s.reg sr1 + s.reg sr2)))

/-- R181 to R183. The bytes read back where memory has its canonical form (log 5, kept by every step:
EveryStepKeepsInv). Where the access fails its checks, the error and nothing else: the Faulted machine is the spec's
decision D1, log 1; alignment before protection D20, log 22; the width of the opcode 90_conflicts.md C3, log 18. -/
def Obligations.StoreBytes : Prop :=
  ∀ (dr dr1 dr2 sr : Reg) (addr20 : Addr),
    isWord (0xe0000000#32 ||| place addr20 5 ||| place sr 0) (.stbA addr20 sr) ∧
    storesRegister (.stbA addr20 sr) 1 (fun _ => addr20) sr ∧
    isWord (0xe2000000#32 ||| place dr 5 ||| place sr 0) (.stbR dr sr) ∧
    storesRegister (.stbR dr sr) 1 (fun s => low20 (s.reg dr)) sr ∧
    isWord (0xe4000000#32 ||| place dr1 10 ||| place dr2 5 ||| place sr 0) (.stbX dr1 dr2 sr) ∧
    storesRegister (.stbX dr1 dr2 sr) 1 (fun s => low20 (s.reg dr1 + s.reg dr2)) sr

/-- R184 to R186. The bytes read back where memory has its canonical form (log 5, kept by every step:
EveryStepKeepsInv). Where the access fails its checks, the error and nothing else: the Faulted machine is the spec's
decision D1, log 1; alignment before protection D20, log 22; the width of the opcode 90_conflicts.md C3, log 18. -/
def Obligations.StoreShorts : Prop :=
  ∀ (dr dr1 dr2 sr : Reg) (addr20 : Addr),
    isWord (0xe8000000#32 ||| place addr20 5 ||| place sr 0) (.stsA addr20 sr) ∧
    storesRegister (.stsA addr20 sr) 2 (fun _ => addr20) sr ∧
    isWord (0xea000000#32 ||| place dr 5 ||| place sr 0) (.stsR dr sr) ∧
    storesRegister (.stsR dr sr) 2 (fun s => low20 (s.reg dr)) sr ∧
    isWord (0xec000000#32 ||| place dr1 10 ||| place dr2 5 ||| place sr 0) (.stsX dr1 dr2 sr) ∧
    storesRegister (.stsX dr1 dr2 sr) 2 (fun s => low20 (s.reg dr1 + s.reg dr2)) sr

/-- R187 to R189. The bytes read back where memory has its canonical form (log 5, kept by every step:
EveryStepKeepsInv). Where the access fails its checks, the error and nothing else: the Faulted machine is the spec's
decision D1, log 1; alignment before protection D20, log 22; the width of the opcode 90_conflicts.md C3, log 18. -/
def Obligations.StoreWords : Prop :=
  ∀ (dr dr1 dr2 sr : Reg) (addr20 : Addr),
    isWord (0xf0000000#32 ||| place addr20 5 ||| place sr 0) (.stwA addr20 sr) ∧
    storesRegister (.stwA addr20 sr) 4 (fun _ => addr20) sr ∧
    isWord (0xf2000000#32 ||| place dr 5 ||| place sr 0) (.stwR dr sr) ∧
    storesRegister (.stwR dr sr) 4 (fun s => low20 (s.reg dr)) sr ∧
    isWord (0xf4000000#32 ||| place dr1 10 ||| place dr2 5 ||| place sr 0) (.stwX dr1 dr2 sr) ∧
    storesRegister (.stwX dr1 dr2 sr) 4 (fun s => low20 (s.reg dr1 + s.reg dr2)) sr

/-- R200 to R202. The place of DR in the word is the spec's decision D10, log 17. -/
def Obligations.CopiesLeaveFlags : Prop :=
  ∀ (dr sr : Reg) (imm16 : BitVec 16),
    isWord (0x10000000#32 ||| place dr 18 ||| place sr 0) (.cpy dr sr) ∧
    isWord (0x10020000#32 ||| place dr 18 ||| place imm16 0) (.cpyi dr imm16) ∧
    isWord (0x10030000#32 ||| place dr 18 ||| place imm16 0) (.cpyu dr imm16) ∧
    ∀ (s : State) (i : Instr) (v : Word),
      (i = .cpy dr sr ∧ v = s.reg sr ∨ i = .cpyi dr imm16 ∧ v = BitVec.ofInt 32 imm16.toInt ∨
        i = .cpyu dr imm16 ∧ v = BitVec.ofNat 32 imm16.toNat) →
      ∃ t, exec i s = .next t ∧ t.reg dr = v ∧ keepsRegs s t [dr] ∧ t.ms = s.ms ∧ t.pc = s.pc ∧ keepsMemory s t ∧
        keepsSystem s t ∧ keepsDevices s t

/-- R203 to R208. Bits 19:0 of R15 as the address are the spec's decision D5, log 13; reading SR after the decrement
D27, log 24; the Faulted machine D1, log 1; the decrement that stands D23, log 2. The stored bytes read back where
memory has its canonical form (log 5). -/
def Obligations.Pushes : Prop :=
  ∀ (sr : Reg) (imm16 : BitVec 16),
    isWord (0xf8000000#32 ||| place imm16 0) (.pushi imm16) ∧ isWord (0xf8010000#32 ||| place imm16 0) (.pushu imm16) ∧
    isWord (0xf9000000#32 ||| place sr 0) (.pushb sr) ∧ isWord (0xfa000000#32 ||| place sr 0) (.pushs sr) ∧
    isWord (0xfb000000#32 ||| place sr 0) (.pushw sr) ∧
    pushesValue (.pushi imm16) (fun _ => imm16.signExtend 32) ∧
    pushesValue (.pushu imm16) (fun _ => imm16.zeroExtend 32) ∧
    pushesValue (.pushb sr) (fun s => ((s.reg sr).extractLsb' 0 8).signExtend 32) ∧
    pushesValue (.pushs sr) (fun s => ((s.reg sr).extractLsb' 0 16).signExtend 32) ∧
    pushesValue (.pushw sr) (fun s => s.reg sr)

/-- R209 to R212. Bits 19:0 of R15 as the address are the spec's decision D5, log 13; adding 4 after the write to DR
D27, log 24; the Faulted machine D1, log 1. -/
def Obligations.Pops : Prop :=
  ∀ dr : Reg,
    isWord (0xfd000000#32 ||| place dr 0) (.popb dr) ∧ isWord (0xfe000000#32 ||| place dr 0) (.pops dr) ∧
    isWord (0xff000000#32 ||| place dr 0) (.popw dr) ∧
    popsValue (.popb dr) dr 1 (fun s => (s.reg dr).extractLsb' 8 24 ++ s.mem.readByte (low20 (s.reg 15#5))) ∧
    popsValue (.pops dr) dr 2 (fun s => (s.reg dr).extractLsb' 16 16 ++
      (s.mem.readByte (low20 (s.reg 15#5) + 1#20) ++ s.mem.readByte (low20 (s.reg 15#5)))) ∧
    popsValue (.popw dr) dr 4 (fun s => wordAt s (low20 (s.reg 15#5)))

/-- R208 then R212. With SR = 15 the word pushed is the decremented R15, by the spec's decision D27, log 24. -/
def Obligations.PushThenPop : Prop :=
  ∀ (s t : State) (sr dr : Reg), s.mem.wf = true → mayPush s → dr ≠ 15#5 → exec (.pushw sr) s = .next t →
    ∃ u, exec (.popw dr) t = .next u ∧ u.reg dr = (decremented s).reg sr ∧ keepsRegs s u [dr] ∧ u.ms = s.ms ∧
      u.pc = s.pc

/-- R220, R244, R248. The check before everything else is the spec's decision D30, log 22; the Faulted machine D1, log
1. The last clause is about states that are not already Faulted. -/
def Obligations.PrivilegedInUserMode : Prop :=
  ∀ (i : Instr) (s : State),
    (isPrivileged i = true → s.ms.getLsbD 16 = false → exec i s = .next (raised s .privilegeViolation)) ∧
    (s.fault = none → (isPrivileged i = false ∨ s.ms.getLsbD 16 = true) →
      ∀ t, exec i s = .next t → t.fault ≠ some .privilegeViolation)

/-- R271 to R273. The pairing of ports and words is the spec's decision D25, log 7; the value shown is a free value at
each read. -/
def Obligations.ReadClock : Prop :=
  ∀ (i : Instr) (dr : Reg) (s : State), s.ms.getLsbD 16 = true →
    (readsPort i dr 4#8 s → ∃ t, exec i s = .next t ∧ inputsTo s t dr ∧ t.inQueue = s.inQueue ∧
      ((t.reg dr).extractLsb' 20 5).toNat = t.clock.day.val + 1 ∧
      ((t.reg dr).extractLsb' 16 4).toNat = t.clock.month.val + 1 ∧ (t.reg dr).extractLsb' 0 16 = t.clock.year ∧
      1 ≤ ((t.reg dr).extractLsb' 20 5).toNat ∧ ((t.reg dr).extractLsb' 20 5).toNat ≤ 31 ∧
      1 ≤ ((t.reg dr).extractLsb' 16 4).toNat ∧ ((t.reg dr).extractLsb' 16 4).toNat ≤ 12) ∧
    (readsPort i dr 5#8 s → ∃ t, exec i s = .next t ∧ inputsTo s t dr ∧ t.inQueue = s.inQueue ∧
      ((t.reg dr).extractLsb' 12 5).toNat = t.clock.hour.val ∧
      ((t.reg dr).extractLsb' 6 6).toNat = t.clock.minute.val ∧
      ((t.reg dr).extractLsb' 0 6).toNat = t.clock.second.val ∧ ((t.reg dr).extractLsb' 12 5).toNat ≤ 23 ∧
      ((t.reg dr).extractLsb' 6 6).toNat ≤ 59 ∧ ((t.reg dr).extractLsb' 0 6).toNat ≤ 59)

/-- R275 and R276. The bound of the queue is the spec's decision D33, log 30; the undefined bits are a free value, log
6. -/
def Obligations.ReadByteInput : Prop :=
  ∀ (i : Instr) (dr : Reg) (s : State), s.ms.getLsbD 16 = true →
    (readsPort i dr 8#8 s → s.inQueue.length ≤ 65535 → ∃ t, exec i s = .next t ∧ inputsTo s t dr ∧
      t.clock = s.clock ∧ t.inQueue = s.inQueue ∧ ((t.reg dr).extractLsb' 0 16).toNat = s.inQueue.length) ∧
    (readsPort i dr 9#8 s → ∃ t, exec i s = .next t ∧ inputsTo s t dr ∧ t.clock = s.clock ∧
      (s.inQueue = [] → t.inQueue = []) ∧
      ∀ b rest, s.inQueue = b :: rest → (t.reg dr).extractLsb' 0 8 = b ∧ t.inQueue = rest)

/-- R221, R222, R278, R279. That such a read gives any value and raises no error is the spec's decision D17, log 6. -/
def Obligations.ReadOtherPorts : Prop :=
  ∀ (dr sr : Reg) (imm8 : Port),
    isWord (0x70000000#32 ||| place dr 9 ||| place sr 0) (.inR dr sr) ∧
    isWord (0x70000100#32 ||| place dr 9 ||| place imm8 0) (.inI dr imm8) ∧
    ∀ (i : Instr) (p : Port) (s : State), s.ms.getLsbD 16 = true → p ∉ [4#8, 5#8, 8#8, 9#8] → readsPort i dr p s →
      ∃ t, exec i s = .next t ∧ inputsTo s t dr ∧ t.clock = s.clock ∧ t.inQueue = s.inQueue

/-- R223, R224, R278, R279. That a write to another port has no effect is the spec's decision D17, log 6. -/
def Obligations.WritePorts : Prop :=
  ∀ (dr sr : Reg) (imm8 : Port),
    isWord (0x74000000#32 ||| place dr 5 ||| place sr 0) (.outR dr sr) ∧
    isWord (0x74002000#32 ||| place imm8 5 ||| place sr 0) (.outI imm8 sr) ∧
    ∀ (i : Instr) (p : Port) (s : State), s.ms.getLsbD 16 = true → writesPort i sr p s →
      exec i s = .next (if p = 12#8 then { s with output := s.output ++ [(s.reg sr).extractLsb' 0 8] } else s)

/-- R226 and R227. That the errors make the machine Faulted is the spec's decision D1, log 1. -/
def Obligations.SetSupervisorStack : Prop :=
  ∀ (addr20 : Addr) (sr : Reg),
    isWord (0x30000000#32 ||| place addr20 0) (.ssspA addr20) ∧ isWord (0x30100000#32 ||| place sr 0) (.ssspR sr) ∧
    ∀ (i : Instr) (a : Addr) (s : State), (i = .ssspA addr20 ∧ a = addr20 ∨ i = .ssspR sr ∧ a = low20 (s.reg sr)) →
      (s.ms.getLsbD 16 = false → exec i s = .next (raised s .privilegeViolation)) ∧
      (s.ms.getLsbD 16 = true → a.toNat % 4 ≠ 0 → exec i s = .next (raised s (.alignmentError a 4))) ∧
      (s.ms.getLsbD 16 = true → a.toNat % 4 = 0 → exec i s = .next { s with ssp := a })

/-- R229, R40, R301. That nothing leaves the halted state is the spec's decision D19, log 26; the Faulted machine D1,
log 1; the tape that holds the events to come is the model's, log 9, and that a step in a terminal state is one of
them log 32. -/
def Obligations.HaltStopsTheMachine : Prop :=
  isWord 0x88000000#32 .halt ∧
  ∀ s : State,
    (s.ms.getLsbD 16 = true → exec .halt s = .next { s with halted := true } ∧
      (s.fault = none → ∀ vs, step { s with halted := true, pending := vs, arrivals := [] } = .fault .halted ∧
        ∀ bs later, ∃ t, step { s with halted := true, pending := vs, arrivals := bs :: later } = .next t ∧
          onlyReceives { s with halted := true, pending := vs, arrivals := bs :: later } t)) ∧
    (s.ms.getLsbD 16 = false → exec .halt s = .next (raised s .privilegeViolation))

/-- R42, whole: the table of PIXIE. A byte without a defined value is one memory gives no value; what a read of it gives
is log 4. -/
def Obligations.ResetState : Prop :=
  (∀ r, State.reset.reg r = 0x00000000#32) ∧ State.reset.pc = 0x00200#20 ∧ State.reset.ms = 0x00010001#32 ∧
  State.reset.ssp = 0x00000#20 ∧ (∀ a : Addr, a.toNat < 0x200 → State.reset.mem.readByte a = 0x00#8) ∧
  ∀ a : Addr, 0x200 ≤ a.toNat → State.reset.mem.lookup a.toNat = none

/-- The invariant of `EveryStepKeepsInv` at reset, and R43: the spec's decision D18, log 10; that the tape of arrivals
is empty is the model's choice, log 9. -/
def Obligations.ResetMeetsInv : Prop :=
  State.reset.Inv ∧ State.reset.Running ∧ State.reset.pending = [] ∧ State.reset.inQueue = [] ∧
  State.reset.output = [] ∧ State.reset.arrivals = []

/-- R26, R36, R39 and R275 (the spec marks the first as derived and the last as its decision D33, log 30), with the
canonical form of memory of log 5. -/
def Obligations.EveryStepKeepsInv : Prop :=
  ∀ s t : State, s.Inv → step s = .next t → t.Inv

/-- R241, R297, R301. The two terminal states are the spec's decisions D1 and D19, log 1 and log 26; the tape that holds
the events to come is the model's, log 9, and that a step in a terminal state is one of them log 32. What an event
does is stated by `ArrivalsAtTheBoundary`. -/
def Obligations.RunningMachineSteps : Prop :=
  (∀ (i : Instr) (s : State), ∃ t, exec i s = .next t) ∧
  (∀ s : State, s.Running → ∃ t, step s = .next t) ∧
  (∀ (s : State) (e : MachineError), s.fault = some e → s.arrivals = [] → step s = .fault (.faulted e)) ∧
  (∀ s : State, s.fault = none → s.halted = true → s.arrivals = [] → step s = .fault .halted) ∧
  ∀ s : State, ¬ s.Running → s.arrivals ≠ [] → step s = .next (environment s) ∧ onlyReceives s (environment s)

/-- R296, R297, R52. The 20-bit wrap of pc is the spec's decision D9, log 16; the byte order of the fetch D16, log 28;
`environment` is what the model adds around exec, stated by `ArrivalsAtTheBoundary`. -/
def Obligations.StepRunsDecodedInstruction : Prop :=
  ∀ (s : State) (i : Instr), s.Running → (environment s).pending = [] → s.pc.toNat % 4 = 0 → accessible s s.pc →
    decode [s.mem.readByte s.pc, s.mem.readByte (s.pc + 1#20), s.mem.readByte (s.pc + 2#20),
      s.mem.readByte (s.pc + 3#20)] = .ok (i, []) →
    step s = exec i { environment s with pc := s.pc + 4#20 }

/-- R243, R246, R298. These are the spec's decisions D1, D2, D3 and D16, log 1, 3 and 28. -/
def Obligations.FetchErrors : Prop :=
  ∀ s : State, s.Running → (environment s).pending = [] → s.pc.toNat % 4 = 0 →
    (¬ accessible s s.pc → step s = .next (raised (environment s) (.protectionError s.pc))) ∧
    (accessible s s.pc → ∀ r, decodeWord (wordAt s s.pc) = .error r →
      step s = .next (raised { environment s with pc := s.pc + 4#20 } (.illegalInstruction (wordAt s s.pc))))

/-- R277, R297. The event is the spec's decision D33; the tape that holds the events to come is the model's, log 9; the
bound log 30. -/
def Obligations.ArrivalsAtTheBoundary : Prop :=
  ∀ s : State,
    (s.arrivals = [] → environment s = s) ∧
    ∀ bs later, s.arrivals = bs :: later →
      (bs ≠ [] → s.inQueue.length + bs.length ≤ 65535 →
        environment s = { s with inQueue := s.inQueue ++ bs, pending := (environment s).pending, arrivals := later } ∧
        (∀ v : Vect, v ∈ (environment s).pending ↔ v = 8 ∨ v ∈ s.pending) ∧
        (s.pending.Pairwise (· < ·) → (environment s).pending.Pairwise (· < ·))) ∧
      (bs = [] ∨ 65535 < s.inQueue.length + bs.length → environment s = { s with arrivals := later })

/-- R255, R263. Outside protection by the spec's decision D4, log 12; the vector consumed D12, log 10; the handler's
alignment D14, log 22; the Faulted machine D1, log 1. -/
def Obligations.InterruptFromUserMode : Prop :=
  ∀ (s : State) (v : Vect), s.Running → (environment s).pending = [v] → s.ms.getLsbD 16 = false →
    (wordAt s (BitVec.ofNat 20 (4 * v.val))).getLsbD 31 = true →
    entersThrough { environment s with pending := [] } (step s) (zext s.ssp) [s.reg 15#5, s.ms, zext s.pc]
      (low20 (wordAt s (BitVec.ofNat 20 (4 * v.val))))

/-- R255, R263, R265. The vector consumed is the spec's decision D12, log 10; the handler's alignment D14, log 22; the
Faulted machine D1, log 1. -/
def Obligations.InterruptFromSupervisorMode : Prop :=
  ∀ (s : State) (v : Vect), s.Running → (environment s).pending = [v] → s.ms.getLsbD 16 = true →
    (wordAt s (BitVec.ofNat 20 (4 * v.val))).getLsbD 31 = true →
    entersThrough { environment s with pending := [] } (step s) (s.reg 15#5) [s.ms, zext s.pc]
      (low20 (wordAt s (BitVec.ofNat 20 (4 * v.val))))

/-- R255, R256, R259: the spec's decisions D12 and D31, log 10 and log 25. -/
def Obligations.DisabledInterruptIsLost : Prop :=
  ∀ (s : State) (v : Vect), s.Running → (environment s).pending = [v] →
    (wordAt s (BitVec.ofNat 20 (4 * v.val))).getLsbD 31 = false →
    step s = .next { environment s with pending := [] }

/-- R251, R255, R258, R259, R263, R265. Which member is a free value: the spec's decision D13, log 8; one in each step
D31, log 25; the vector consumed D12, log 10; outside protection D4, log 12; the handler's alignment D14, log 22;
the Faulted machine D1, log 1. -/
def Obligations.PendingIsServedOneByOne : Prop :=
  ∀ s : State, s.Running → (environment s).pending ≠ [] →
    ∃ v t d, v ∈ (environment s).pending ∧ step s = .next t ∧ t.pending = (environment s).pending.erase v ∧
      keepsRegs s t [15#5] ∧ t.ssp = s.ssp ∧ t.halted = s.halted ∧ t.inQueue = (environment s).inQueue ∧
      t.output = s.output ∧ t.clock = s.clock ∧ (∀ k, k ≠ 16 → t.ms.getLsbD k = s.ms.getLsbD k) ∧
      (t.fault = none ∨ ∃ a, t.fault = some (.alignmentError a 4)) ∧
      servesThrough { environment s with pending := (environment s).pending.erase v, draws := d } (step s)
        (wordAt s (BitVec.ofNat 20 (4 * v.val)))

/-- R250: no other rule clears MI, and the mode after RETI is the image's bit 16. RETI and RETS are one word (R161). -/
def Obligations.LeavingSupervisorMode : Prop :=
  (∀ s t : State, step s = .next t → s.ms.getLsbD 16 = true → t.ms.getLsbD 16 = false →
    (environment s).pending = [] ∧ isWord (wordAt s s.pc) .reti ∧ isWord 0x1c000000#32 .reti ∧
    t.ms = wordAt s (low20 (s.reg 15#5 + 4#32)) ∧ (wordAt s (low20 (s.reg 15#5 + 4#32))).getLsbD 16 = false) ∧
  ∀ s t : State, s.ms.getLsbD 16 = true → exec .reti s = .next t → t.fault = none →
    t.ms.getLsbD 16 = (wordAt s (low20 (s.reg 15#5 + 4#32))).getLsbD 16

/-- R249: both set MI after saving the old ms, no other rule sets MI, and if MI is already 1 it stays 1. RETI loads all
of ms, and in supervisor mode, so it never goes from user mode to supervisor mode. The places of the old ms are
R160's and R255's: that SCL in supervisor mode also saves it at ssp - 8 is the spec's decision D32, log 25, and that
the frame is stored outside protection D4, log 12, both taken as the model's choice. -/
def Obligations.EnteringSupervisorMode : Prop :=
  (∀ (s t : State) (n : BitVec 6), exec (.scl n) s = .next t → t.fault = none →
    t.ms.getLsbD 16 = true ∧ (s.mem.wf = true → wordAt t (low20 (zext s.ssp - 8#32)) = s.ms)) ∧
  (∀ s t : State, s.Running → step s = .next t → (environment s).pending ≠ [] →
    (∀ v ∈ (environment s).pending, (wordAt s (BitVec.ofNat 20 (4 * v.val))).getLsbD 31 = true) → t.fault = none →
    t.ms.getLsbD 16 = true ∧ (s.mem.wf = true →
      wordAt t (low20 (if s.ms.getLsbD 16 then s.reg 15#5 - 4#32 else zext s.ssp - 8#32)) = s.ms)) ∧
  (∀ s t : State, step s = .next t → s.ms.getLsbD 16 = false → t.ms.getLsbD 16 = true →
    ((∃ v ∈ (environment s).pending, (wordAt s (BitVec.ofNat 20 (4 * v.val))).getLsbD 31 = true) ∨
      (environment s).pending = [] ∧ ∃ n, isWord (wordAt s s.pc) (.scl n)) ∧
    (s.mem.wf = true → wordAt t (low20 (zext s.ssp - 8#32)) = s.ms)) ∧
  (∀ s t : State, step s = .next t → (environment s).pending ≠ [] → s.ms.getLsbD 16 = true →
    t.ms.getLsbD 16 = true) ∧
  ∀ (s t : State) (n : BitVec 6), exec (.scl n) s = .next t → s.ms.getLsbD 16 = true → t.ms.getLsbD 16 = true

/-- R36: ssp is written only by SSSP, which is privileged; entry does not update it. -/
def Obligations.OnlySsspWritesSsp : Prop :=
  ∀ s t : State, step s = .next t → t.ssp ≠ s.ssp →
    (environment s).pending = [] ∧ s.ms.getLsbD 16 = true ∧
    ((∃ a, isWord (wordAt s s.pc) (.ssspA a)) ∨ ∃ r, isWord (wordAt s s.pc) (.ssspR r))

/-- R32 and R34. That the reserved bits are kept as loaded by RETI is the spec's decision D21, log 23. -/
def Obligations.FlagsLeftAlone : Prop :=
  ∀ (i : Instr) (s t : State), exec i s = .next t →
    (leavesFlags i = true → ∀ k, k < 3 → t.ms.getLsbD k = s.ms.getLsbD k) ∧
    (i ≠ .reti → ∀ k, 3 ≤ k → k ≠ 16 → t.ms.getLsbD k = s.ms.getLsbD k)

/-- R39, R40. How pending vectors are held is the spec's decision D12, log 10; the tape of arrivals is the model's, log
9. -/
def Obligations.InstructionsLeavePending : Prop :=
  ∀ (i : Instr) (s t : State), exec i s = .next t →
    t.pending = s.pending ∧ t.arrivals = s.arrivals ∧
    (∀ vs arr, exec i { s with pending := vs, arrivals := arr } = .next { t with pending := vs, arrivals := arr }) ∧
    (t.halted ≠ s.halted → i = .halt ∧ s.ms.getLsbD 16 = true ∧ t.halted = true) ∧
    (t.fault = none → s.fault = none)

/-- R38, R41, R248: the ports are reached only by IN and OUT in supervisor mode. -/
def Obligations.DevicesOnlyThroughPorts : Prop :=
  ∀ (i : Instr) (s t : State), exec i s = .next t →
    (t.output ≠ s.output → s.ms.getLsbD 16 = true ∧ ((∃ a b, i = .outR a b) ∨ ∃ p b, i = .outI p b) ∧
      ∃ b, t.output = s.output ++ [b]) ∧
    (t.inQueue ≠ s.inQueue → s.ms.getLsbD 16 = true ∧ ((∃ a b, i = .inR a b) ∨ ∃ a p, i = .inI a p) ∧
      ∃ b, s.inQueue = b :: t.inQueue) ∧
    (t.clock ≠ s.clock ∨ t.draws ≠ s.draws →
      s.ms.getLsbD 16 = true ∧ ((∃ a b, i = .inR a b) ∨ ∃ a p, i = .inI a p))

/-- R62, R63, R248: the promise of user mode. That an error ends the step before the access is the spec's decision D1,
log 1; the fetch is checked too by D16, log 28. -/
def Obligations.UserModeCannotWrite : Prop :=
  ∀ s t : State, step s = .next t → s.ms.getLsbD 16 = false → (environment s).pending = [] →
    (∀ n, ¬ isWord (wordAt s s.pc) (.scl n)) →
    (∀ a : Addr, a.toNat < 0x08000 → t.mem.readByte a = s.mem.readByte a) ∧ t.ssp = s.ssp ∧
    (∀ k, 3 ≤ k → t.ms.getLsbD k = s.ms.getLsbD k) ∧ t.halted = s.halted ∧ t.output = s.output ∧
    t.clock = s.clock ∧ t.inQueue = (environment s).inQueue

/-- R62, R63, R248: no register, flag, error or later address of a user-mode step depends on a protected byte. The
checks before each access are those of D16 and D20, log 28 and log 22. -/
def Obligations.UserModeCannotRead : Prop :=
  ∀ s s' : State, s.Running → agreeOutsideProtected s s' → s.ms.getLsbD 16 = false → (environment s).pending = [] →
    (∀ n, ¬ isWord (wordAt s s.pc) (.scl n)) →
    ∃ t t', step s = .next t ∧ step s' = .next t' ∧ agreeOutsideProtected t t'

/-- R51; the spec marks the mixed-width part as derived from the layout. The canonical form is log 5. -/
def Obligations.MemoryLayout : Prop :=
  ∀ (m : Memory) (a : Addr) (v : Word) (h : Short), m.wf = true →
    (a.toNat % 4 = 0 →
      (m.writeWord a v).readWord a = v ∧ (m.writeWord a v).readShort a = v.extractLsb' 0 16 ∧
      (m.writeWord a v).readShort (a + 2#20) = v.extractLsb' 16 16 ∧
      (∀ k, k < 4 → (m.writeWord a v).readByte (a + BitVec.ofNat 20 k) = v.extractLsb' (8 * k) 8) ∧
      (∀ c, ¬ isWithin a 4 c → (m.writeWord a v).readByte c = m.readByte c) ∧ (m.writeWord a v).wf = true) ∧
    (a.toNat % 2 = 0 →
      (m.writeShort a h).readShort a = h ∧
      (∀ k, k < 2 → (m.writeShort a h).readByte (a + BitVec.ofNat 20 k) = h.extractLsb' (8 * k) 8) ∧
      (∀ c, ¬ isWithin a 2 c → (m.writeShort a h).readByte c = m.readByte c) ∧ (m.writeShort a h).wf = true)

/-- R299, R187: self-modifying code needs nothing in between. The spec's decision D16, log 28. -/
def Obligations.StoreIsSeenByTheNextFetch : Prop :=
  ∀ (s t : State) (sr : Reg) (i : Instr), s.Running → s.mem.wf = true → s.arrivals = [] → s.pending = [] →
    s.pc.toNat % 4 = 0 → accessible s s.pc → isWord (s.reg sr) i → exec (.stwA s.pc sr) s = .next t →
    step t = exec i { t with pc := s.pc + 4#20 }

/-- R59, R66. The value of a byte that nothing has written is a free constant of its address: the spec's decision D29,
log 4. -/
def Obligations.UnwrittenMemoryKeepsItsValue : Prop :=
  ∀ (s t : State) (a : Addr) (dr : Reg), a.toNat % 4 = 0 → accessible s a → exec (.ldwA dr a) s = .next t →
    keepsMemory s t ∧
    ∀ (i : Instr) (u : State), exec i t = .next u →
      (storesNothing i = true → keepsMemory t u) ∧
      (∀ b sr, i = .stwA b sr → b ≠ a → u.ms = t.ms ∧ ∀ c, isWithin a 4 c → u.mem.readByte c = t.mem.readByte c) ∧
      ((∀ c, isWithin a 4 c → u.mem.readByte c = t.mem.readByte c) → accessible u a →
        ∃ x, exec (.ldwA dr a) u = .next x ∧ x.reg dr = t.reg dr ∧
          (∀ k, k < 3 → x.ms.getLsbD k = t.ms.getLsbD k) ∧ (u.ms = t.ms → x.ms = t.ms) ∧ x.fault = u.fault ∧
          keepsMemory u x)
end

