-- ==== Sys2Proof/Laws/Word.lean ====
section
/-! SUPPORT. Laws/Word.lean: what the bit-field helpers say as numbers, so that facts about encodings become arithmetic
that omega decides. -/

namespace Sys2Proof

/-- A concatenation as a number. -/
theorem toNat_append_mul {a b : Nat} (x : BitVec a) (y : BitVec b) : (x ++ y).toNat = x.toNat * 2 ^ b + y.toNat := by
  rw [BitVec.toNat_append, ← Nat.shiftLeft_add_eq_or_of_lt y.isLt, Nat.shiftLeft_eq]

/-- A packed word is the bits it was packed from. -/
theorem toNat_pack {n : Nat} (x : BitVec n) (h : n = 32) : (pack x h).toNat = x.toNat := by
  simp [pack]

/-- A field as a number. -/
theorem toNat_field (w : Word) (lo n : Nat) : (field w lo n).toNat = w.toNat / 2 ^ lo % 2 ^ n := by
  simp [field, BitVec.extractLsb'_toNat, Nat.shiftRight_eq_div_pow]

/-- A bit as a number. -/
theorem bit_eq (w : Word) (i : Nat) : bit w i = decide (w.toNat / 2 ^ i % 2 = 1) := by
  simp [bit, BitVec.getLsbD, Nat.testBit_eq_decide_div_mod_eq]

/-- A truth value as one bit. -/
theorem toNat_ofBool (b : Bool) : (BitVec.ofBool b).toNat = b.toNat := by
  cases b <;> rfl

/-- `whenZero` answers an instruction exactly when the Reserved bits are zero. -/
theorem whenZero_ok {n : Nat} (r : BitVec n) (i j : Instr) : whenZero r i = .ok j ↔ r = 0#n ∧ i = j := by
  unfold whenZero
  split <;> simp_all

/-- The bytes of a word put together again. -/
@[simp] theorem wordOfBytes_bytes (w : Word) :
    wordOfBytes (field w 0 8) (field w 8 8) (field w 16 8) (field w 24 8) = w := by
  apply BitVec.eq_of_toNat_eq
  have h : (wordOfBytes (field w 0 8) (field w 8 8) (field w 16 8) (field w 24 8)).toNat
      = (field w 24 8 ++ field w 16 8 ++ field w 8 8 ++ field w 0 8).toNat := rfl
  rw [h]
  simp only [toNat_append_mul, toNat_field]
  have := w.isLt
  omega

/-- The four bytes of a word decode as the word. -/
theorem decode_bytesOfWord (w : Word) (rest : List Byte) :
    decode (bytesOfWord w ++ rest) = (decodeWord w).map (fun i => (i, rest)) := by
  simp only [bytesOfWord, List.cons_append, List.nil_append, decode, wordOfBytes_bytes]
  cases decodeWord w <;> rfl

end Sys2Proof
end

