-- ==== Sys2Proof/Laws/Memory.lean ====
section
/-! SUPPORT. Laws/Memory.lean: every memory operation keeps the canonical form, and what a byte reads as after a
write. -/

namespace Sys2Proof.Machine

/-- The canonical form, one entry at a time. -/
theorem Memory.wf_cons (a : Nat) (b : Byte) (rest : Memory) :
    Memory.wf ((a, b) :: rest) = true ↔
      a < 0x100000 ∧ Memory.unlisted a ≠ some b ∧ (∀ c ∈ rest, a < c.1) ∧ Memory.wf rest = true := by
  simp [Memory.wf, and_assoc]

/-- Every key of memory after a put is the key put or an old one. -/
theorem Memory.mem_put {m : Memory} {a : Nat} {b : Byte} {c : Host.Cell} (h : c ∈ m.put a b) :
    c = (a, b) ∨ c ∈ m := by
  induction m with
  | nil =>
    simp only [Memory.put] at h
    split at h <;> simp_all
  | cons e rest ih =>
    obtain ⟨k, x⟩ := e
    simp only [Memory.put] at h
    split at h
    · split at h <;> simp_all
    · split at h
      · split at h
        · exact .inr (List.mem_cons_of_mem _ h)
        · rcases List.mem_cons.mp h with h | h
          · exact .inl h
          · exact .inr (List.mem_cons_of_mem _ h)
      · rcases List.mem_cons.mp h with h | h
        · exact .inr (h ▸ List.mem_cons_self)
        · exact (ih h).imp id (List.mem_cons_of_mem _)

/-- A put keeps the canonical form. -/
theorem Memory.wf_put {m : Memory} {a : Nat} (b : Byte) (ha : a < 0x100000) (h : m.wf = true) :
    (m.put a b).wf = true := by
  induction m with
  | nil =>
    simp only [Memory.put]
    split
    · rfl
    · exact (Memory.wf_cons _ _ _).mpr ⟨ha, by assumption, by simp, rfl⟩
  | cons e rest ih =>
    obtain ⟨k, x⟩ := e
    obtain ⟨hk, hx, hall, hrest⟩ := (Memory.wf_cons _ _ _).mp h
    simp only [Memory.put]
    split
    · next hlt =>
      split
      · exact h
      · refine (Memory.wf_cons _ _ _).mpr ⟨ha, by assumption, fun c hc => ?_, h⟩
        rcases List.mem_cons.mp hc with rfl | hc
        · exact hlt
        · exact Nat.lt_trans hlt (hall c hc)
    · split
      · next heq =>
        split
        · exact hrest
        · exact (Memory.wf_cons _ _ _).mpr ⟨ha, by assumption, fun c hc => heq ▸ hall c hc, hrest⟩
      · next hnlt hne =>
        refine (Memory.wf_cons _ _ _).mpr ⟨hk, hx, fun c hc => ?_, ih hrest⟩
        rcases Memory.mem_put hc with rfl | hc
        · show k < a
          omega
        · exact hall c hc

/-- A lookup below every listed address gives what an unlisted address holds. -/
theorem Memory.lookup_below {m : Memory} {a : Nat} (h : ∀ c ∈ m, a < c.1) : m.lookup a = Memory.unlisted a := by
  induction m with
  | nil => rfl
  | cons e rest ih =>
    obtain ⟨k, x⟩ := e
    have hk : a < k := h (k, x) List.mem_cons_self
    simp only [Memory.lookup, if_neg (Nat.ne_of_lt hk)]
    exact ih fun c hc => h c (List.mem_cons_of_mem _ hc)

/-- A put leaves every other address as it was. -/
theorem Memory.lookup_put_ne (m : Memory) {a k : Nat} (b : Byte) (h : k ≠ a) : (m.put a b).lookup k = m.lookup k := by
  induction m with
  | nil =>
    simp only [Memory.put]
    split <;> simp [Memory.lookup, h]
  | cons e rest ih =>
    obtain ⟨j, x⟩ := e
    simp only [Memory.put]
    split
    · split <;> simp [Memory.lookup, h]
    · split
      · next heq =>
        subst heq
        split <;> simp [Memory.lookup, h]
      · simp [Memory.lookup, ih]

/-- A lookup of the address just put gives the byte put. -/
theorem Memory.lookup_put_same {m : Memory} (a : Nat) (b : Byte) (h : m.wf = true) :
    (m.put a b).lookup a = some b := by
  induction m with
  | nil =>
    simp only [Memory.put]
    split
    · assumption
    · simp [Memory.lookup]
  | cons e rest ih =>
    obtain ⟨k, x⟩ := e
    obtain ⟨-, -, hall, hrest⟩ := (Memory.wf_cons _ _ _).mp h
    simp only [Memory.put]
    split
    · next hlt =>
      split
      · next hu =>
        refine (Memory.lookup_below fun c hc => ?_).trans hu
        rcases List.mem_cons.mp hc with rfl | hc
        · exact hlt
        · exact Nat.lt_trans hlt (hall c hc)
      · simp [Memory.lookup]
    · split
      · next heq =>
        split
        · next hu => exact (Memory.lookup_below fun c hc => heq ▸ hall c hc).trans hu
        · simp [Memory.lookup]
      · next hne => simp only [Memory.lookup, if_neg hne]; exact ih hrest

/-- Above the two tables a lookup of the address just put gives the byte put, in any memory. -/
theorem Memory.lookup_put_high (m : Memory) {a : Nat} (b : Byte) (ha : 0x200 ≤ a) : (m.put a b).lookup a = some b := by
  have hu : Memory.unlisted a ≠ some b := by simp [Memory.unlisted, Nat.not_lt.mpr ha]
  induction m with
  | nil => simp [Memory.put, hu, Memory.lookup]
  | cons e rest ih =>
    obtain ⟨k, x⟩ := e
    simp only [Memory.put, if_neg hu]
    split
    · simp [Memory.lookup]
    · split
      · simp [Memory.lookup]
      · next hne => simp only [Memory.lookup, if_neg hne]; exact ih

/-- A byte write keeps the canonical form. -/
theorem Memory.wf_writeByte {m : Memory} (a : Addr) (b : Byte) (h : m.wf = true) : (m.writeByte a b).wf = true :=
  Memory.wf_put b a.isLt h

/-- A short write keeps the canonical form. -/
theorem Memory.wf_writeShort {m : Memory} (a : Addr) (v : Short) (h : m.wf = true) : (m.writeShort a v).wf = true :=
  Memory.wf_writeByte _ _ (Memory.wf_writeByte _ _ h)

/-- A word write keeps the canonical form. -/
theorem Memory.wf_writeWord {m : Memory} (a : Addr) (v : Word) (h : m.wf = true) : (m.writeWord a v).wf = true :=
  Memory.wf_writeByte _ _ (Memory.wf_writeByte _ _ (Memory.wf_writeByte _ _ (Memory.wf_writeByte _ _ h)))

/-- The memory at reset has the canonical form. -/
theorem Memory.wf_reset : State.reset.mem.wf = true := rfl

/-- A byte read after a byte write at another address. -/
theorem Memory.readByte_writeByte_ne (m : Memory) {a c : Addr} (b : Byte) (h : c ≠ a) :
    (m.writeByte a b).readByte c = m.readByte c := by
  have : c.toNat ≠ a.toNat := fun e => h (BitVec.eq_of_toNat_eq e)
  simp only [Memory.readByte, Memory.writeByte, Memory.lookup_put_ne m b this]

/-- A byte read after a byte write at the same address. -/
theorem Memory.readByte_writeByte_same {m : Memory} (a : Addr) (b : Byte) (h : m.wf = true) :
    (m.writeByte a b).readByte a = b := by
  simp only [Memory.readByte, Memory.writeByte, Memory.lookup_put_same _ b h]

/-- A byte read after a byte write at the same address, above the two tables and in any memory. -/
theorem Memory.readByte_writeByte_high (m : Memory) (a : Addr) (b : Byte) (ha : 0x200 ≤ a.toNat) :
    (m.writeByte a b).readByte a = b := by
  simp only [Memory.readByte, Memory.writeByte, Memory.lookup_put_high m b ha]

/-- A byte read after a short write elsewhere. -/
theorem Memory.readByte_writeShort_ne (m : Memory) {a c : Addr} (v : Short) (h0 : c ≠ a) (h1 : c ≠ a + 1#20) :
    (m.writeShort a v).readByte c = m.readByte c := by
  simp only [Memory.writeShort, Memory.readByte_writeByte_ne _ _ h1, Memory.readByte_writeByte_ne _ _ h0]

/-- A byte read after a word write elsewhere. -/
theorem Memory.readByte_writeWord_ne (m : Memory) {a c : Addr} (v : Word) (h0 : c ≠ a) (h1 : c ≠ a + 1#20)
    (h2 : c ≠ a + 2#20) (h3 : c ≠ a + 3#20) : (m.writeWord a v).readByte c = m.readByte c := by
  simp only [Memory.writeWord, Memory.readByte_writeByte_ne _ _ h3, Memory.readByte_writeByte_ne _ _ h2,
    Memory.readByte_writeByte_ne _ _ h1, Memory.readByte_writeByte_ne _ _ h0]

/-- The bytes of a short after it is written. -/
theorem Memory.readByte_writeShort {m : Memory} (a : Addr) (v : Short) (h : m.wf = true) :
    (m.writeShort a v).readByte a = v.extractLsb' 0 8 ∧ (m.writeShort a v).readByte (a + 1#20) = v.extractLsb' 8 8 := by
  have e : a ≠ a + 1#20 := by bv_omega
  exact ⟨by rw [Memory.writeShort, Memory.readByte_writeByte_ne _ _ e, Memory.readByte_writeByte_same _ _ h],
    Memory.readByte_writeByte_same _ _ (Memory.wf_writeByte _ _ h)⟩

/-- The bytes of a word after it is written. -/
theorem Memory.readByte_writeWord {m : Memory} (a : Addr) (v : Word) (h : m.wf = true) :
    (m.writeWord a v).readByte a = field v 0 8 ∧ (m.writeWord a v).readByte (a + 1#20) = field v 8 8 ∧
      (m.writeWord a v).readByte (a + 2#20) = field v 16 8 ∧ (m.writeWord a v).readByte (a + 3#20) = field v 24 8 := by
  have h1 := Memory.wf_writeByte a (field v 0 8) h
  have h2 := Memory.wf_writeByte (a + 1#20) (field v 8 8) h1
  have h3 := Memory.wf_writeByte (a + 2#20) (field v 16 8) h2
  refine ⟨?_, ?_, ?_, Memory.readByte_writeByte_same _ _ h3⟩
  · rw [Memory.writeWord, Memory.readByte_writeByte_ne _ _ (by bv_omega), Memory.readByte_writeByte_ne _ _ (by bv_omega),
      Memory.readByte_writeByte_ne _ _ (by bv_omega), Memory.readByte_writeByte_same _ _ h]
  · rw [Memory.writeWord, Memory.readByte_writeByte_ne _ _ (by bv_omega), Memory.readByte_writeByte_ne _ _ (by bv_omega),
      Memory.readByte_writeByte_same _ _ h1]
  · rw [Memory.writeWord, Memory.readByte_writeByte_ne _ _ (by bv_omega), Memory.readByte_writeByte_same _ _ h2]

/-- A word read back where it was written. -/
theorem Memory.readWord_writeWord {m : Memory} (a : Addr) (v : Word) (h : m.wf = true) :
    (m.writeWord a v).readWord a = v := by
  obtain ⟨h0, h1, h2, h3⟩ := Memory.readByte_writeWord a v h
  rw [Memory.readWord, h0, h1, h2, h3, wordOfBytes_bytes]

end Sys2Proof.Machine
end

