-- ==== Sys2Proof/Laws/State.lean ====
section
/-! SUPPORT. Laws/State.lean: the small lemmas of the state: what a read of a field gives after an update, each true by
rfl, and what a read of a register gives after a write of one. -/

namespace Sys2Proof.Machine

section Fields

variable (s : State)

@[simp] theorem State.setReg_pc (r : Reg) (v : Word) : (s.setReg r v).pc = s.pc := rfl
@[simp] theorem State.setReg_ms (r : Reg) (v : Word) : (s.setReg r v).ms = s.ms := rfl
@[simp] theorem State.setReg_ssp (r : Reg) (v : Word) : (s.setReg r v).ssp = s.ssp := rfl
@[simp] theorem State.setReg_mem (r : Reg) (v : Word) : (s.setReg r v).mem = s.mem := rfl
@[simp] theorem State.setReg_pending (r : Reg) (v : Word) : (s.setReg r v).pending = s.pending := rfl
@[simp] theorem State.setReg_halted (r : Reg) (v : Word) : (s.setReg r v).halted = s.halted := rfl
@[simp] theorem State.setReg_fault (r : Reg) (v : Word) : (s.setReg r v).fault = s.fault := rfl
@[simp] theorem State.setReg_inQueue (r : Reg) (v : Word) : (s.setReg r v).inQueue = s.inQueue := rfl
@[simp] theorem State.setReg_output (r : Reg) (v : Word) : (s.setReg r v).output = s.output := rfl
@[simp] theorem State.setReg_clock (r : Reg) (v : Word) : (s.setReg r v).clock = s.clock := rfl
@[simp] theorem State.setReg_draws (r : Reg) (v : Word) : (s.setReg r v).draws = s.draws := rfl
@[simp] theorem State.setReg_arrivals (r : Reg) (v : Word) : (s.setReg r v).arrivals = s.arrivals := rfl

@[simp] theorem State.setPc_pc (a : Addr) : (s.setPc a).pc = a := rfl
@[simp] theorem State.setPc_ms (a : Addr) : (s.setPc a).ms = s.ms := rfl
@[simp] theorem State.setPc_ssp (a : Addr) : (s.setPc a).ssp = s.ssp := rfl
@[simp] theorem State.setPc_mem (a : Addr) : (s.setPc a).mem = s.mem := rfl
@[simp] theorem State.setPc_pending (a : Addr) : (s.setPc a).pending = s.pending := rfl
@[simp] theorem State.setPc_halted (a : Addr) : (s.setPc a).halted = s.halted := rfl
@[simp] theorem State.setPc_fault (a : Addr) : (s.setPc a).fault = s.fault := rfl
@[simp] theorem State.setPc_inQueue (a : Addr) : (s.setPc a).inQueue = s.inQueue := rfl
@[simp] theorem State.setPc_output (a : Addr) : (s.setPc a).output = s.output := rfl
@[simp] theorem State.setPc_clock (a : Addr) : (s.setPc a).clock = s.clock := rfl
@[simp] theorem State.setPc_draws (a : Addr) : (s.setPc a).draws = s.draws := rfl
@[simp] theorem State.setPc_arrivals (a : Addr) : (s.setPc a).arrivals = s.arrivals := rfl

@[simp] theorem State.setMs_pc (v : Word) : (s.setMs v).pc = s.pc := rfl
@[simp] theorem State.setMs_ms (v : Word) : (s.setMs v).ms = v := rfl
@[simp] theorem State.setMs_ssp (v : Word) : (s.setMs v).ssp = s.ssp := rfl
@[simp] theorem State.setMs_mem (v : Word) : (s.setMs v).mem = s.mem := rfl
@[simp] theorem State.setMs_pending (v : Word) : (s.setMs v).pending = s.pending := rfl
@[simp] theorem State.setMs_halted (v : Word) : (s.setMs v).halted = s.halted := rfl
@[simp] theorem State.setMs_fault (v : Word) : (s.setMs v).fault = s.fault := rfl
@[simp] theorem State.setMs_inQueue (v : Word) : (s.setMs v).inQueue = s.inQueue := rfl
@[simp] theorem State.setMs_output (v : Word) : (s.setMs v).output = s.output := rfl
@[simp] theorem State.setMs_clock (v : Word) : (s.setMs v).clock = s.clock := rfl
@[simp] theorem State.setMs_draws (v : Word) : (s.setMs v).draws = s.draws := rfl
@[simp] theorem State.setMs_arrivals (v : Word) : (s.setMs v).arrivals = s.arrivals := rfl

@[simp] theorem State.setSsp_pc (a : Addr) : (s.setSsp a).pc = s.pc := rfl
@[simp] theorem State.setSsp_ms (a : Addr) : (s.setSsp a).ms = s.ms := rfl
@[simp] theorem State.setSsp_ssp (a : Addr) : (s.setSsp a).ssp = a := rfl
@[simp] theorem State.setSsp_mem (a : Addr) : (s.setSsp a).mem = s.mem := rfl
@[simp] theorem State.setSsp_pending (a : Addr) : (s.setSsp a).pending = s.pending := rfl
@[simp] theorem State.setSsp_halted (a : Addr) : (s.setSsp a).halted = s.halted := rfl
@[simp] theorem State.setSsp_fault (a : Addr) : (s.setSsp a).fault = s.fault := rfl
@[simp] theorem State.setSsp_inQueue (a : Addr) : (s.setSsp a).inQueue = s.inQueue := rfl
@[simp] theorem State.setSsp_output (a : Addr) : (s.setSsp a).output = s.output := rfl
@[simp] theorem State.setSsp_clock (a : Addr) : (s.setSsp a).clock = s.clock := rfl
@[simp] theorem State.setSsp_draws (a : Addr) : (s.setSsp a).draws = s.draws := rfl
@[simp] theorem State.setSsp_arrivals (a : Addr) : (s.setSsp a).arrivals = s.arrivals := rfl

@[simp] theorem State.setMem_pc (m : Memory) : (s.setMem m).pc = s.pc := rfl
@[simp] theorem State.setMem_ms (m : Memory) : (s.setMem m).ms = s.ms := rfl
@[simp] theorem State.setMem_ssp (m : Memory) : (s.setMem m).ssp = s.ssp := rfl
@[simp] theorem State.setMem_mem (m : Memory) : (s.setMem m).mem = m := rfl
@[simp] theorem State.setMem_pending (m : Memory) : (s.setMem m).pending = s.pending := rfl
@[simp] theorem State.setMem_halted (m : Memory) : (s.setMem m).halted = s.halted := rfl
@[simp] theorem State.setMem_fault (m : Memory) : (s.setMem m).fault = s.fault := rfl
@[simp] theorem State.setMem_inQueue (m : Memory) : (s.setMem m).inQueue = s.inQueue := rfl
@[simp] theorem State.setMem_output (m : Memory) : (s.setMem m).output = s.output := rfl
@[simp] theorem State.setMem_clock (m : Memory) : (s.setMem m).clock = s.clock := rfl
@[simp] theorem State.setMem_draws (m : Memory) : (s.setMem m).draws = s.draws := rfl
@[simp] theorem State.setMem_arrivals (m : Memory) : (s.setMem m).arrivals = s.arrivals := rfl

@[simp] theorem State.setPending_pc (vs : List Vect) : (s.setPending vs).pc = s.pc := rfl
@[simp] theorem State.setPending_ms (vs : List Vect) : (s.setPending vs).ms = s.ms := rfl
@[simp] theorem State.setPending_ssp (vs : List Vect) : (s.setPending vs).ssp = s.ssp := rfl
@[simp] theorem State.setPending_mem (vs : List Vect) : (s.setPending vs).mem = s.mem := rfl
@[simp] theorem State.setPending_pending (vs : List Vect) : (s.setPending vs).pending = vs := rfl
@[simp] theorem State.setPending_halted (vs : List Vect) : (s.setPending vs).halted = s.halted := rfl
@[simp] theorem State.setPending_fault (vs : List Vect) : (s.setPending vs).fault = s.fault := rfl
@[simp] theorem State.setPending_inQueue (vs : List Vect) : (s.setPending vs).inQueue = s.inQueue := rfl
@[simp] theorem State.setPending_output (vs : List Vect) : (s.setPending vs).output = s.output := rfl
@[simp] theorem State.setPending_clock (vs : List Vect) : (s.setPending vs).clock = s.clock := rfl
@[simp] theorem State.setPending_draws (vs : List Vect) : (s.setPending vs).draws = s.draws := rfl
@[simp] theorem State.setPending_arrivals (vs : List Vect) : (s.setPending vs).arrivals = s.arrivals := rfl

@[simp] theorem State.halt_pc : (s.halt).pc = s.pc := rfl
@[simp] theorem State.halt_ms : (s.halt).ms = s.ms := rfl
@[simp] theorem State.halt_ssp : (s.halt).ssp = s.ssp := rfl
@[simp] theorem State.halt_mem : (s.halt).mem = s.mem := rfl
@[simp] theorem State.halt_pending : (s.halt).pending = s.pending := rfl
@[simp] theorem State.halt_halted : (s.halt).halted = true := rfl
@[simp] theorem State.halt_fault : (s.halt).fault = s.fault := rfl
@[simp] theorem State.halt_inQueue : (s.halt).inQueue = s.inQueue := rfl
@[simp] theorem State.halt_output : (s.halt).output = s.output := rfl
@[simp] theorem State.halt_clock : (s.halt).clock = s.clock := rfl
@[simp] theorem State.halt_draws : (s.halt).draws = s.draws := rfl
@[simp] theorem State.halt_arrivals : (s.halt).arrivals = s.arrivals := rfl

@[simp] theorem State.withFault_pc (e : MachineError) : (s.withFault e).pc = s.pc := rfl
@[simp] theorem State.withFault_ms (e : MachineError) : (s.withFault e).ms = s.ms := rfl
@[simp] theorem State.withFault_ssp (e : MachineError) : (s.withFault e).ssp = s.ssp := rfl
@[simp] theorem State.withFault_mem (e : MachineError) : (s.withFault e).mem = s.mem := rfl
@[simp] theorem State.withFault_pending (e : MachineError) : (s.withFault e).pending = s.pending := rfl
@[simp] theorem State.withFault_halted (e : MachineError) : (s.withFault e).halted = s.halted := rfl
@[simp] theorem State.withFault_fault (e : MachineError) : (s.withFault e).fault = some e := rfl
@[simp] theorem State.withFault_inQueue (e : MachineError) : (s.withFault e).inQueue = s.inQueue := rfl
@[simp] theorem State.withFault_output (e : MachineError) : (s.withFault e).output = s.output := rfl
@[simp] theorem State.withFault_clock (e : MachineError) : (s.withFault e).clock = s.clock := rfl
@[simp] theorem State.withFault_draws (e : MachineError) : (s.withFault e).draws = s.draws := rfl
@[simp] theorem State.withFault_arrivals (e : MachineError) : (s.withFault e).arrivals = s.arrivals := rfl

@[simp] theorem State.setInQueue_pc (q : List Byte) : (s.setInQueue q).pc = s.pc := rfl
@[simp] theorem State.setInQueue_ms (q : List Byte) : (s.setInQueue q).ms = s.ms := rfl
@[simp] theorem State.setInQueue_ssp (q : List Byte) : (s.setInQueue q).ssp = s.ssp := rfl
@[simp] theorem State.setInQueue_mem (q : List Byte) : (s.setInQueue q).mem = s.mem := rfl
@[simp] theorem State.setInQueue_pending (q : List Byte) : (s.setInQueue q).pending = s.pending := rfl
@[simp] theorem State.setInQueue_halted (q : List Byte) : (s.setInQueue q).halted = s.halted := rfl
@[simp] theorem State.setInQueue_fault (q : List Byte) : (s.setInQueue q).fault = s.fault := rfl
@[simp] theorem State.setInQueue_inQueue (q : List Byte) : (s.setInQueue q).inQueue = q := rfl
@[simp] theorem State.setInQueue_output (q : List Byte) : (s.setInQueue q).output = s.output := rfl
@[simp] theorem State.setInQueue_clock (q : List Byte) : (s.setInQueue q).clock = s.clock := rfl
@[simp] theorem State.setInQueue_draws (q : List Byte) : (s.setInQueue q).draws = s.draws := rfl
@[simp] theorem State.setInQueue_arrivals (q : List Byte) : (s.setInQueue q).arrivals = s.arrivals := rfl

@[simp] theorem State.emit_pc (b : Byte) : (s.emit b).pc = s.pc := rfl
@[simp] theorem State.emit_ms (b : Byte) : (s.emit b).ms = s.ms := rfl
@[simp] theorem State.emit_ssp (b : Byte) : (s.emit b).ssp = s.ssp := rfl
@[simp] theorem State.emit_mem (b : Byte) : (s.emit b).mem = s.mem := rfl
@[simp] theorem State.emit_pending (b : Byte) : (s.emit b).pending = s.pending := rfl
@[simp] theorem State.emit_halted (b : Byte) : (s.emit b).halted = s.halted := rfl
@[simp] theorem State.emit_fault (b : Byte) : (s.emit b).fault = s.fault := rfl
@[simp] theorem State.emit_inQueue (b : Byte) : (s.emit b).inQueue = s.inQueue := rfl
@[simp] theorem State.emit_output (b : Byte) : (s.emit b).output = s.output ++ [b] := rfl
@[simp] theorem State.emit_clock (b : Byte) : (s.emit b).clock = s.clock := rfl
@[simp] theorem State.emit_draws (b : Byte) : (s.emit b).draws = s.draws := rfl
@[simp] theorem State.emit_arrivals (b : Byte) : (s.emit b).arrivals = s.arrivals := rfl

@[simp] theorem State.setClock_pc (c : Clock) : (s.setClock c).pc = s.pc := rfl
@[simp] theorem State.setClock_ms (c : Clock) : (s.setClock c).ms = s.ms := rfl
@[simp] theorem State.setClock_ssp (c : Clock) : (s.setClock c).ssp = s.ssp := rfl
@[simp] theorem State.setClock_mem (c : Clock) : (s.setClock c).mem = s.mem := rfl
@[simp] theorem State.setClock_pending (c : Clock) : (s.setClock c).pending = s.pending := rfl
@[simp] theorem State.setClock_halted (c : Clock) : (s.setClock c).halted = s.halted := rfl
@[simp] theorem State.setClock_fault (c : Clock) : (s.setClock c).fault = s.fault := rfl
@[simp] theorem State.setClock_inQueue (c : Clock) : (s.setClock c).inQueue = s.inQueue := rfl
@[simp] theorem State.setClock_output (c : Clock) : (s.setClock c).output = s.output := rfl
@[simp] theorem State.setClock_clock (c : Clock) : (s.setClock c).clock = c := rfl
@[simp] theorem State.setClock_draws (c : Clock) : (s.setClock c).draws = s.draws := rfl
@[simp] theorem State.setClock_arrivals (c : Clock) : (s.setClock c).arrivals = s.arrivals := rfl

@[simp] theorem State.countDraw_pc : (s.countDraw).pc = s.pc := rfl
@[simp] theorem State.countDraw_ms : (s.countDraw).ms = s.ms := rfl
@[simp] theorem State.countDraw_ssp : (s.countDraw).ssp = s.ssp := rfl
@[simp] theorem State.countDraw_mem : (s.countDraw).mem = s.mem := rfl
@[simp] theorem State.countDraw_pending : (s.countDraw).pending = s.pending := rfl
@[simp] theorem State.countDraw_halted : (s.countDraw).halted = s.halted := rfl
@[simp] theorem State.countDraw_fault : (s.countDraw).fault = s.fault := rfl
@[simp] theorem State.countDraw_inQueue : (s.countDraw).inQueue = s.inQueue := rfl
@[simp] theorem State.countDraw_output : (s.countDraw).output = s.output := rfl
@[simp] theorem State.countDraw_clock : (s.countDraw).clock = s.clock := rfl
@[simp] theorem State.countDraw_draws : (s.countDraw).draws = s.draws + 1 := rfl
@[simp] theorem State.countDraw_arrivals : (s.countDraw).arrivals = s.arrivals := rfl

@[simp] theorem State.setArrivals_pc (l : List (List Byte)) : (s.setArrivals l).pc = s.pc := rfl
@[simp] theorem State.setArrivals_ms (l : List (List Byte)) : (s.setArrivals l).ms = s.ms := rfl
@[simp] theorem State.setArrivals_ssp (l : List (List Byte)) : (s.setArrivals l).ssp = s.ssp := rfl
@[simp] theorem State.setArrivals_mem (l : List (List Byte)) : (s.setArrivals l).mem = s.mem := rfl
@[simp] theorem State.setArrivals_pending (l : List (List Byte)) : (s.setArrivals l).pending = s.pending := rfl
@[simp] theorem State.setArrivals_halted (l : List (List Byte)) : (s.setArrivals l).halted = s.halted := rfl
@[simp] theorem State.setArrivals_fault (l : List (List Byte)) : (s.setArrivals l).fault = s.fault := rfl
@[simp] theorem State.setArrivals_inQueue (l : List (List Byte)) : (s.setArrivals l).inQueue = s.inQueue := rfl
@[simp] theorem State.setArrivals_output (l : List (List Byte)) : (s.setArrivals l).output = s.output := rfl
@[simp] theorem State.setArrivals_clock (l : List (List Byte)) : (s.setArrivals l).clock = s.clock := rfl
@[simp] theorem State.setArrivals_draws (l : List (List Byte)) : (s.setArrivals l).draws = s.draws := rfl
@[simp] theorem State.setArrivals_arrivals (l : List (List Byte)) : (s.setArrivals l).arrivals = l := rfl

@[simp] theorem State.setFlags_pc {n : Nat} (x : BitVec n) : (s.setFlags x).pc = s.pc := rfl
@[simp] theorem State.setFlags_ms {n : Nat} (x : BitVec n) : (s.setFlags x).ms = withFlagsOf x s.ms := rfl
@[simp] theorem State.setFlags_ssp {n : Nat} (x : BitVec n) : (s.setFlags x).ssp = s.ssp := rfl
@[simp] theorem State.setFlags_mem {n : Nat} (x : BitVec n) : (s.setFlags x).mem = s.mem := rfl
@[simp] theorem State.setFlags_pending {n : Nat} (x : BitVec n) : (s.setFlags x).pending = s.pending := rfl
@[simp] theorem State.setFlags_halted {n : Nat} (x : BitVec n) : (s.setFlags x).halted = s.halted := rfl
@[simp] theorem State.setFlags_fault {n : Nat} (x : BitVec n) : (s.setFlags x).fault = s.fault := rfl
@[simp] theorem State.setFlags_inQueue {n : Nat} (x : BitVec n) : (s.setFlags x).inQueue = s.inQueue := rfl
@[simp] theorem State.setFlags_output {n : Nat} (x : BitVec n) : (s.setFlags x).output = s.output := rfl
@[simp] theorem State.setFlags_clock {n : Nat} (x : BitVec n) : (s.setFlags x).clock = s.clock := rfl
@[simp] theorem State.setFlags_draws {n : Nat} (x : BitVec n) : (s.setFlags x).draws = s.draws := rfl
@[simp] theorem State.setFlags_arrivals {n : Nat} (x : BitVec n) : (s.setFlags x).arrivals = s.arrivals := rfl

@[simp] theorem State.writeResult_pc (dr : Reg) (v : Word) : (s.writeResult dr v).pc = s.pc := rfl
@[simp] theorem State.writeResult_ms (dr : Reg) (v : Word) : (s.writeResult dr v).ms = withFlagsOf v s.ms := rfl
@[simp] theorem State.writeResult_ssp (dr : Reg) (v : Word) : (s.writeResult dr v).ssp = s.ssp := rfl
@[simp] theorem State.writeResult_mem (dr : Reg) (v : Word) : (s.writeResult dr v).mem = s.mem := rfl
@[simp] theorem State.writeResult_pending (dr : Reg) (v : Word) : (s.writeResult dr v).pending = s.pending := rfl
@[simp] theorem State.writeResult_halted (dr : Reg) (v : Word) : (s.writeResult dr v).halted = s.halted := rfl
@[simp] theorem State.writeResult_fault (dr : Reg) (v : Word) : (s.writeResult dr v).fault = s.fault := rfl
@[simp] theorem State.writeResult_inQueue (dr : Reg) (v : Word) : (s.writeResult dr v).inQueue = s.inQueue := rfl
@[simp] theorem State.writeResult_output (dr : Reg) (v : Word) : (s.writeResult dr v).output = s.output := rfl
@[simp] theorem State.writeResult_clock (dr : Reg) (v : Word) : (s.writeResult dr v).clock = s.clock := rfl
@[simp] theorem State.writeResult_draws (dr : Reg) (v : Word) : (s.writeResult dr v).draws = s.draws := rfl
@[simp] theorem State.writeResult_arrivals (dr : Reg) (v : Word) : (s.writeResult dr v).arrivals = s.arrivals := rfl

end Fields

section Registers

variable (s : State)

/-- A register read after a write of a register. -/
theorem State.reg_setReg (r q : Reg) (v : Word) : (s.setReg r v).reg q = if q = r then v else s.reg q := by
  simp only [State.reg, State.setReg, Vector.getElem_set]
  by_cases h : q = r
  · simp [h]
  · have h' : ¬ r.toNat = q.toNat := fun e => h (BitVec.eq_of_toNat_eq e.symm)
    simp [h, h']

@[simp] theorem State.reg_setReg_same (r : Reg) (v : Word) : (s.setReg r v).reg r = v := by simp [State.reg_setReg]

@[simp] theorem State.reg_setReg_ne {r q : Reg} (v : Word) (h : q ≠ r) : (s.setReg r v).reg q = s.reg q := by
  simp [State.reg_setReg, h]

@[simp] theorem State.reg_setPc (q : Reg) (a : Addr) : (s.setPc a).reg q = s.reg q := rfl
@[simp] theorem State.reg_setMs (q : Reg) (v : Word) : (s.setMs v).reg q = s.reg q := rfl
@[simp] theorem State.reg_setSsp (q : Reg) (a : Addr) : (s.setSsp a).reg q = s.reg q := rfl
@[simp] theorem State.reg_setMem (q : Reg) (m : Memory) : (s.setMem m).reg q = s.reg q := rfl
@[simp] theorem State.reg_setPending (q : Reg) (vs : List Vect) : (s.setPending vs).reg q = s.reg q := rfl
@[simp] theorem State.reg_halt (q : Reg) : (s.halt).reg q = s.reg q := rfl
@[simp] theorem State.reg_withFault (q : Reg) (e : MachineError) : (s.withFault e).reg q = s.reg q := rfl
@[simp] theorem State.reg_setInQueue (r : Reg) (q : List Byte) : (s.setInQueue q).reg r = s.reg r := rfl
@[simp] theorem State.reg_emit (q : Reg) (b : Byte) : (s.emit b).reg q = s.reg q := rfl
@[simp] theorem State.reg_setClock (q : Reg) (c : Clock) : (s.setClock c).reg q = s.reg q := rfl
@[simp] theorem State.reg_countDraw (q : Reg) : (s.countDraw).reg q = s.reg q := rfl
@[simp] theorem State.reg_setArrivals (q : Reg) (l : List (List Byte)) : (s.setArrivals l).reg q = s.reg q := rfl
@[simp] theorem State.reg_setFlags (q : Reg) {n : Nat} (x : BitVec n) : (s.setFlags x).reg q = s.reg q := rfl

/-- A register read after a 32-bit result is written with its flags. -/
theorem State.reg_writeResult (dr q : Reg) (v : Word) :
    (s.writeResult dr v).reg q = if q = dr then v else s.reg q := by
  simp [State.writeResult, State.reg_setReg]

@[simp] theorem State.supervisor_setReg (r : Reg) (v : Word) : (s.setReg r v).supervisor = s.supervisor := rfl
@[simp] theorem State.supervisor_setPc (a : Addr) : (s.setPc a).supervisor = s.supervisor := rfl
@[simp] theorem State.supervisor_setSsp (a : Addr) : (s.setSsp a).supervisor = s.supervisor := rfl
@[simp] theorem State.supervisor_setMem (m : Memory) : (s.setMem m).supervisor = s.supervisor := rfl
@[simp] theorem State.supervisor_setPending (vs : List Vect) : (s.setPending vs).supervisor = s.supervisor := rfl
@[simp] theorem State.supervisor_halt : (s.halt).supervisor = s.supervisor := rfl
@[simp] theorem State.supervisor_withFault (e : MachineError) : (s.withFault e).supervisor = s.supervisor := rfl
@[simp] theorem State.supervisor_setInQueue (q : List Byte) : (s.setInQueue q).supervisor = s.supervisor := rfl
@[simp] theorem State.supervisor_emit (b : Byte) : (s.emit b).supervisor = s.supervisor := rfl
@[simp] theorem State.supervisor_setClock (c : Clock) : (s.setClock c).supervisor = s.supervisor := rfl
@[simp] theorem State.supervisor_countDraw : (s.countDraw).supervisor = s.supervisor := rfl
@[simp] theorem State.supervisor_setArrivals (l : List (List Byte)) : (s.setArrivals l).supervisor = s.supervisor := rfl

/-- Two states are equal when their registers are read equal and every other field is equal. -/
theorem State.ext_reg {s t : State} (hr : ∀ r, s.reg r = t.reg r) (hpc : s.pc = t.pc) (hms : s.ms = t.ms)
    (hssp : s.ssp = t.ssp) (hmem : s.mem = t.mem) (hpending : s.pending = t.pending) (hhalted : s.halted = t.halted)
    (hfault : s.fault = t.fault) (hin : s.inQueue = t.inQueue) (hout : s.output = t.output)
    (hclock : s.clock = t.clock) (hdraws : s.draws = t.draws) (harr : s.arrivals = t.arrivals) : s = t := by
  have hregs : s.regs = t.regs := by
    apply Vector.ext
    intro i hi
    simpa [State.reg, BitVec.toNat_ofNat, Nat.mod_eq_of_lt hi] using hr (BitVec.ofNat 5 i)
  cases s
  cases t
  simp_all

end Registers

section Modes

@[simp] theorem modeIndicator_withSupervisor (ms : Word) : modeIndicator (withSupervisor ms) = true := by
  simp [modeIndicator, withSupervisor]

/-- The flags and every other bit after `SetFlags` (10_state.md R31). -/
theorem getLsbD_withFlagsOf {n : Nat} (x : BitVec n) (ms : Word) (i : Nat) :
    (withFlagsOf x ms).getLsbD i =
      if i = 0 then isZero x else if i = 1 then isPositive x else if i = 2 then isNegative x else ms.getLsbD i := by
  simp only [withFlagsOf]
  rw [BitVec.getLsbD_append]
  match i with
  | 0 => simp
  | 1 => rw [if_neg (by omega), BitVec.getLsbD_append]; simp
  | 2 => rw [if_neg (by omega), BitVec.getLsbD_append, if_neg (by omega), BitVec.getLsbD_append]; simp
  | k + 3 =>
    rw [if_neg (by omega), BitVec.getLsbD_append, if_neg (by omega), BitVec.getLsbD_append, if_neg (by omega),
      BitVec.getLsbD_extractLsb']
    by_cases hk : k < 29
    · simp [hk, Nat.add_comm]
    · have : ms.getLsbD (k + 3) = false := BitVec.getLsbD_of_ge _ _ (by omega)
      simp [hk, this]

/-- Writing flags leaves the mode as it is. -/
@[simp] theorem modeIndicator_withFlagsOf {n : Nat} (x : BitVec n) (ms : Word) :
    modeIndicator (withFlagsOf x ms) = modeIndicator ms := by
  simp only [modeIndicator, getLsbD_withFlagsOf]
  simp

/-- Every bit but bit 16 is kept when MI is set (10_state.md R11, R33). -/
theorem getLsbD_withSupervisor (ms : Word) (i : Nat) :
    (withSupervisor ms).getLsbD i = (decide (i = 16) || ms.getLsbD i) := by
  by_cases h : i < 32
  · have : (0x00010000#32).getLsbD i = decide (i = 16) := by
      interval_cases i <;> decide
    rw [withSupervisor, BitVec.getLsbD_or, this, Bool.or_comm]
  · have h' : i ≠ 16 := by omega
    simp [BitVec.getLsbD_of_ge _ _ (Nat.not_lt.mp h), h']

end Modes

end Sys2Proof.Machine
end

