-- ==== Sys2Proof/Laws/Ops.lean ====
section
/-! SUPPORT. Laws/Ops.lean: one lemma for each shared operation, saying once everything it can do. Later proofs cite
these and unfold none of the operations. -/

namespace Sys2Proof.Machine

/-! ## Sequencing -/

/-- A sequence runs its second part from where its first part completed, and stops where its first part raised. -/
theorem Act.bind_apply {α β : Type} (x : Act α) (f : α → Act β) (s : State) :
    (x >>= f) s = (match x s with | .ok a s' => f a s' | .error e s' => .error e s') := by
  change EStateM.bind x f s = _
  unfold EStateM.bind
  cases x s <;> rfl

@[simp] theorem Act.pure_apply {α : Type} (a : α) (s : State) : (pure a : Act α) s = .ok a s := rfl

/-- A sequence whose first part completes. -/
theorem Act.bind_ok {α β : Type} {x : Act α} {f : α → Act β} {s s' : State} {a : α} (h : x s = .ok a s') :
    (x >>= f) s = f a s' := by
  rw [Act.bind_apply, h]

/-- A sequence whose first part raises. -/
theorem Act.bind_error {α β : Type} {x : Act α} {f : α → Act β} {s s' : State} {e : MachineError}
    (h : x s = .error e s') : (x >>= f) s = .error e s' := by
  rw [Act.bind_apply, h]

/-- A sequence completes exactly when both its parts do. -/
theorem Act.bind_eq_ok {α β : Type} {x : Act α} {f : α → Act β} {s t : State} {b : β} :
    (x >>= f) s = .ok b t ↔ ∃ a u, x s = .ok a u ∧ f a u = .ok b t := by
  rw [Act.bind_apply]
  cases x s <;> simp

/-- A sequence raises exactly when one of its parts does. -/
theorem Act.bind_eq_error {α β : Type} {x : Act α} {f : α → Act β} {s t : State} {e : MachineError} :
    (x >>= f) s = .error e t ↔ x s = .error e t ∨ ∃ a u, x s = .ok a u ∧ f a u = .error e t := by
  rw [Act.bind_apply]
  cases x s <;> simp

@[simp] theorem look_apply {α : Type} (f : State → α) (s : State) : look f s = .ok (f s) s := rfl
@[simp] theorem change_apply (f : State → State) (s : State) : change f s = .ok () (f s) := rfl
@[simp] theorem readReg_apply (r : Reg) (s : State) : readReg r s = .ok (s.reg r) s := rfl
@[simp] theorem writeReg_apply (r : Reg) (v : Word) (s : State) : writeReg r v s = .ok () (s.setReg r v) := rfl
@[simp] theorem readPc_apply (s : State) : readPc s = .ok s.pc s := rfl
@[simp] theorem writePc_apply (a : Addr) (s : State) : writePc a s = .ok () (s.setPc a) := rfl
@[simp] theorem readMs_apply (s : State) : readMs s = .ok s.ms s := rfl
@[simp] theorem writeMs_apply (v : Word) (s : State) : writeMs v s = .ok () (s.setMs v) := rfl
@[simp] theorem setSupervisor_apply (s : State) : setSupervisor s = .ok () (s.setMs (withSupervisor s.ms)) := rfl
@[simp] theorem readSsp_apply (s : State) : readSsp s = .ok s.ssp s := rfl
@[simp] theorem writeSsp_apply (a : Addr) (s : State) : writeSsp a s = .ok () (s.setSsp a) := rfl
@[simp] theorem updateFlags_apply {n : Nat} (x : BitVec n) (s : State) : updateFlags x s = .ok () (s.setFlags x) := rfl
@[simp] theorem growStack_apply (s : State) :
    growStack s = .ok () (s.setReg stackReg (s.reg stackReg - 4#32)) := rfl
@[simp] theorem shrinkStack_apply (s : State) :
    shrinkStack s = .ok () (s.setReg stackReg (s.reg stackReg + 4#32)) := rfl

/-! ## Outcomes -/

/-- A performed action always answers a next state. -/
theorem perform_next (act : Act Unit) (s : State) : ∃ t, perform act s = .next t := by
  unfold perform
  split <;> exact ⟨_, rfl⟩

/-- An action that completes. -/
theorem perform_ok {act : Act Unit} {s t : State} (h : act s = .ok () t) : perform act s = .next t := by
  rw [perform, h]

/-- An action that raises. -/
theorem perform_error {act : Act Unit} {s t : State} {e : MachineError} (h : act s = .error e t) :
    perform act s = .next (t.withFault e) := by
  rw [perform, h]

/-- What a performed action answers, from what the action does. -/
theorem perform_cases {act : Act Unit} {s t : State} (h : perform act s = .next t) :
    act s = .ok () t ∨ ∃ e u, act s = .error e u ∧ t = u.withFault e := by
  unfold perform at h
  split at h
  · exact .inl (by injection h with h; subst h; assumption)
  · exact .inr ⟨_, _, by assumption, by injection h with h; exact h.symm⟩

/-! ## Checks and memory -/

/-- A requirement passes without effect or raises without effect. -/
theorem require_eq (ok : Bool) (e : MachineError) (s : State) :
    require ok e s = if ok then .ok () s else .error e s := rfl

/-- The alignment check has no effect but its error. -/
theorem checkAligned_eq (a : Addr) (n : Nat) (s : State) :
    checkAligned a n s = if aligned a n then .ok () s else .error (.alignmentError a n) s := rfl

/-- The two checks, in their order; neither has an effect but its error. -/
theorem checkAccess_eq (a : Addr) (n : Nat) (s : State) :
    checkAccess a n s =
      if aligned a n then (if s.mayAccess a then .ok () s else .error (.protectionError a) s)
      else .error (.alignmentError a n) s := by
  rw [checkAccess, Act.bind_apply, checkAligned_eq]
  split
  · cases h : aligned a n
    · simp_all
    · simp only [checkAllowed, Act.bind_apply, look_apply, require_eq]
      simp_all
  · cases h : aligned a n <;> simp_all

/-- A byte is always aligned. -/
@[simp] theorem aligned_one (a : Addr) : aligned a 1 = true := by
  simp [aligned, Nat.mod_one]

/-- `MemRead` of a byte. -/
theorem memReadByte_eq (a : Addr) (s : State) :
    memReadByte a s = if s.mayAccess a then .ok (s.mem.readByte a) s else .error (.protectionError a) s := by
  rw [memReadByte, Act.bind_apply, checkAccess_eq, aligned_one]
  cases s.mayAccess a <;> rfl

/-- `MemRead` of a short. -/
theorem memReadShort_eq (a : Addr) (s : State) :
    memReadShort a s =
      if aligned a 2 then
        (if s.mayAccess a then .ok (s.mem.readShort a) s else .error (.protectionError a) s)
      else .error (.alignmentError a 2) s := by
  rw [memReadShort, Act.bind_apply, checkAccess_eq]
  cases aligned a 2 <;> cases s.mayAccess a <;> rfl

/-- `MemRead` of a word. -/
theorem memReadWord_eq (a : Addr) (s : State) :
    memReadWord a s =
      if aligned a 4 then
        (if s.mayAccess a then .ok (s.mem.readWord a) s else .error (.protectionError a) s)
      else .error (.alignmentError a 4) s := by
  rw [memReadWord, Act.bind_apply, checkAccess_eq]
  cases aligned a 4 <;> cases s.mayAccess a <;> rfl

/-- `MemWrite` of a byte. -/
theorem memWriteByte_eq (a : Addr) (v : Byte) (s : State) :
    memWriteByte a v s =
      if s.mayAccess a then .ok () (s.setMem (s.mem.writeByte a v)) else .error (.protectionError a) s := by
  rw [memWriteByte, Act.bind_apply, checkAccess_eq, aligned_one]
  cases s.mayAccess a <;> rfl

/-- `MemWrite` of a short. -/
theorem memWriteShort_eq (a : Addr) (v : Short) (s : State) :
    memWriteShort a v s =
      if aligned a 2 then
        (if s.mayAccess a then .ok () (s.setMem (s.mem.writeShort a v)) else .error (.protectionError a) s)
      else .error (.alignmentError a 2) s := by
  rw [memWriteShort, Act.bind_apply, checkAccess_eq]
  cases aligned a 2 <;> cases s.mayAccess a <;> rfl

/-- `MemWrite` of a word. -/
theorem memWriteWord_eq (a : Addr) (v : Word) (s : State) :
    memWriteWord a v s =
      if aligned a 4 then
        (if s.mayAccess a then .ok () (s.setMem (s.mem.writeWord a v)) else .error (.protectionError a) s)
      else .error (.alignmentError a 4) s := by
  rw [memWriteWord, Act.bind_apply, checkAccess_eq]
  cases aligned a 4 <;> cases s.mayAccess a <;> rfl

/-- `MemReadSys` of a word. -/
theorem memReadWordSys_eq (a : Addr) (s : State) :
    memReadWordSys a s = if aligned a 4 then .ok (s.mem.readWord a) s else .error (.alignmentError a 4) s := by
  rw [memReadWordSys, Act.bind_apply, checkAligned_eq]
  cases aligned a 4 <;> rfl

/-- `MemWriteSys` of a word. -/
theorem memWriteWordSys_eq (a : Addr) (v : Word) (s : State) :
    memWriteWordSys a v s =
      if aligned a 4 then .ok () (s.setMem (s.mem.writeWord a v)) else .error (.alignmentError a 4) s := by
  rw [memWriteWordSys, Act.bind_apply, checkAligned_eq]
  cases aligned a 4 <;> rfl

/-! ## Stack and control -/

/-- `Push`: the register is decremented whether or not the store passes its checks. -/
theorem push_eq (v : Word) (s : State) :
    push v s = memWriteWord (addrOf (s.reg stackReg - 4#32)) v (s.setReg stackReg (s.reg stackReg - 4#32)) := by
  simp only [push, Act.bind_apply, growStack_apply, readReg_apply, State.reg_setReg_same]

/-- `Pop`: the register is incremented only after a read that passed its checks. -/
theorem pop_eq (s : State) :
    pop s =
      (match memReadWord (addrOf (s.reg stackReg)) s with
      | .ok v s' => .ok v (s'.setReg stackReg (s'.reg stackReg + 4#32))
      | .error e s' => .error e s') := by
  simp only [pop, Act.bind_apply, readReg_apply]
  split <;> simp_all

/-- `PushSys`. -/
theorem pushSys_eq (v : Word) (s : State) :
    pushSys v s = memWriteWordSys (addrOf (s.reg stackReg - 4#32)) v (s.setReg stackReg (s.reg stackReg - 4#32)) := by
  simp only [pushSys, Act.bind_apply, growStack_apply, readReg_apply, State.reg_setReg_same]

/-- `TransferTo`. -/
theorem transferTo_eq (a : Addr) (s : State) :
    transferTo a s = if aligned a 4 then .ok () (s.setPc a) else .error (.alignmentError a 4) s := by
  rw [transferTo, Act.bind_apply, checkAligned_eq]
  cases aligned a 4 <;> rfl

/-- `PrivCheck`. -/
theorem privCheck_eq (s : State) :
    privCheck s = if s.supervisor then .ok () s else .error .privilegeViolation s := by
  rw [privCheck, Act.bind_apply, readMs_apply]
  rfl

/-- Pushing three or two words of a frame needs one alignment check: the stack pointer keeps its place in a word. -/
theorem aligned_sub_four (v : Word) : aligned (addrOf (v - 4#32)) 4 = aligned (addrOf v) 4 := by
  have : (addrOf (v - 4#32)).toNat % 4 = (addrOf v).toNat % 4 := by
    simp only [addrOf, BitVec.toNat_setWidth, BitVec.toNat_sub, BitVec.toNat_ofNat]
    have := v.isLt
    omega
  simp [aligned, this]

/-- The stack pointer keeps its place in a word when a word is popped. -/
theorem aligned_add_four (v : Word) : aligned (addrOf (v + 4#32)) 4 = aligned (addrOf v) 4 := by
  have : (addrOf (v + 4#32)).toNat % 4 = (addrOf v).toNat % 4 := by
    simp only [addrOf, BitVec.toNat_setWidth, BitVec.toNat_add, BitVec.toNat_ofNat]
    have := v.isLt
    omega
  simp [aligned, this]

@[simp] theorem addrOf_wordOf (a : Addr) : addrOf (wordOf a) = a := by
  apply BitVec.eq_of_toNat_eq
  simp [addrOf, wordOf]

/-- An IVT entry is aligned. -/
@[simp] theorem aligned_ivtAddr (v : Vect) : aligned (ivtAddr v) 4 = true := by
  revert v
  decide

/-- An SCT entry is aligned. -/
@[simp] theorem aligned_sctAddr (n : BitVec 6) : aligned (sctAddr n) 4 = true := by
  revert n
  decide

/-- The stack switch: R15 becomes the supervisor stack pointer less 4, and its old value is stored there. -/
theorem switchStack_eq (s : State) :
    switchStack s =
      memWriteWordSys (addrOf (wordOf s.ssp - 4#32)) (s.reg stackReg) (s.setReg stackReg (wordOf s.ssp - 4#32)) := by
  simp only [switchStack, Act.bind_apply, readReg_apply, readSsp_apply, writeReg_apply, pushSys_eq,
    State.reg_setReg_same]
  congr 1
  refine State.ext_reg (fun r => ?_) rfl rfl rfl rfl rfl rfl rfl rfl rfl rfl rfl rfl
  by_cases h : r = stackReg <;> simp [h]

/-- Entering supervisor mode without a stack switch, on an aligned stack. -/
theorem enterSupervisor_keep (entry : Word) {s : State} (h : aligned (addrOf (s.reg stackReg)) 4 = true) :
    enterSupervisor false entry s =
      transferTo (addrOf entry)
        ((((s.setReg stackReg (s.reg stackReg - 8#32)).setMem
          ((s.mem.writeWord (addrOf (s.reg stackReg - 4#32)) s.ms).writeWord (addrOf (s.reg stackReg - 8#32))
            (wordOf s.pc)))).setMs (withSupervisor s.ms)) := by
  have e8 : s.reg stackReg - 4#32 - 4#32 = s.reg stackReg - 8#32 := by bv_omega
  have h4 : aligned (addrOf (s.reg stackReg - 4#32)) 4 = true := (aligned_sub_four _).trans h
  have h8 : aligned (addrOf (s.reg stackReg - 8#32)) 4 = true := by rw [← e8, aligned_sub_four, h4]
  simp only [enterSupervisor, Bool.false_eq_true, if_false, Act.bind_apply, readMs_apply, pushSys_eq,
    memWriteWordSys_eq, h4, if_true, readPc_apply, setSupervisor_apply, State.setMem_pc, State.setReg_pc,
    State.setMem_mem, State.setReg_mem, State.reg_setMem, State.reg_setReg_same, e8, h8, State.setReg_ms,
    State.setMem_ms]
  congr 1
  refine State.ext_reg (fun r => ?_) rfl rfl rfl rfl rfl rfl rfl rfl rfl rfl rfl rfl
  by_cases hr : r = stackReg <;> simp [hr]

/-- Entering supervisor mode with the stack switch is the switch, then the entry without one. -/
theorem enterSupervisor_switch (entry : Word) (s : State) :
    enterSupervisor true entry s = (switchStack >>= fun _ => enterSupervisor false entry) s := by
  simp only [enterSupervisor, if_true, Bool.false_eq_true, if_false]

/-! ## Interrupts and the environment -/

/-- Membership in the pending set after a vector is raised. -/
theorem mem_insertVect (v w : Vect) (l : List Vect) : w ∈ insertVect v l ↔ w = v ∨ w ∈ l := by
  induction l with
  | nil => simp [insertVect]
  | cons x rest ih =>
    simp only [insertVect]
    split
    · simp
    · split
      · next h => subst h; simp
      · simp only [List.mem_cons, ih]; tauto

/-- Raising a vector keeps the pending set strictly rising. -/
theorem pairwise_insertVect (v : Vect) {l : List Vect} (h : l.Pairwise (· < ·)) :
    (insertVect v l).Pairwise (· < ·) := by
  induction l with
  | nil => simp [insertVect]
  | cons x rest ih =>
    obtain ⟨hx, hrest⟩ := List.pairwise_cons.mp h
    simp only [insertVect]
    split
    · next hlt =>
      refine List.pairwise_cons.mpr ⟨fun y hy => ?_, h⟩
      rcases List.mem_cons.mp hy with rfl | hy
      · exact hlt
      · exact lt_trans hlt (hx y hy)
    · split
      · exact h
      · next hlt hne =>
        refine List.pairwise_cons.mpr ⟨fun y hy => ?_, ih hrest⟩
        rcases (mem_insertVect v y rest).mp hy with rfl | hy
        · exact lt_of_le_of_ne (not_lt.mp hlt) (Ne.symm hne)
        · exact hx y hy

/-- Everything the check for a pending vector can do: nothing is pending, or some member of the set is chosen and
removed, and at most one free value is drawn. -/
theorem takePending_cases (s : State) :
    (s.pending = [] ∧ takePending s = none) ∨
      ∃ v d, v ∈ s.pending ∧ takePending s = some (v, { s with pending := s.pending.erase v, draws := d }) := by
  unfold takePending
  split
  · exact .inl ⟨by assumption, rfl⟩
  · next v h => exact .inr ⟨v, s.draws, by simp [h], by simp [h, State.setPending]⟩
  · next v w rest h =>
    refine .inr ⟨(v :: w :: rest).getD (Config.interruptChoice s.draws % (v :: w :: rest).length) v, s.draws + 1, ?_, ?_⟩
    · have hlt : Config.interruptChoice s.draws % (v :: w :: rest).length < (v :: w :: rest).length :=
        Nat.mod_lt _ (by simp)
      rw [h, List.getD_eq_getElem _ _ hlt]
      exact List.getElem_mem hlt
    · simp only [h]
      rfl

/-- Everything the environment can do at a boundary: one entry of `arrivals` is used up, and its bytes may join the
queue with vector 8 made pending. -/
theorem environment_cases (s : State) :
    (s.arrivals = [] ∧ environment s = s) ∨
      ∃ bs later, s.arrivals = bs :: later ∧
        ((bs = [] ∨ maxQueue < s.inQueue.length + bs.length) ∧ environment s = s.setArrivals later ∨
          bs ≠ [] ∧ s.inQueue.length + bs.length ≤ maxQueue ∧
            environment s =
              ((s.setArrivals later).setInQueue (s.inQueue ++ bs)).setPending (insertVect 8 s.pending)) := by
  unfold environment
  split
  · exact .inl ⟨by assumption, rfl⟩
  · next bs later h =>
    refine .inr ⟨bs, later, h, ?_⟩
    by_cases hbs : bs = []
    · exact .inl ⟨.inl hbs, by simp [arrive, hbs]⟩
    · by_cases hq : maxQueue < s.inQueue.length + bs.length
      · exact .inl ⟨.inr hq, by simp [arrive, hbs, hq]⟩
      · refine .inr ⟨hbs, Nat.not_lt.mp hq, ?_⟩
        simp [arrive, hbs, hq]

/-- A machine is in no terminal state exactly when it is neither Faulted nor halted. -/
theorem State.terminal_eq_none_iff (s : State) : s.terminal = none ↔ s.fault = none ∧ s.halted = false := by
  unfold State.terminal
  cases s.fault <;> cases s.halted <;> simp

/-- A Faulted machine's terminal state carries its error, whether or not it is also halted. -/
theorem State.terminal_of_fault {s : State} {e : MachineError} (h : s.fault = some e) :
    s.terminal = some (.faulted e) := by
  simp [State.terminal, h]

/-- A machine halted without an error. -/
theorem State.terminal_of_halted {s : State} (hf : s.fault = none) (hh : s.halted = true) :
    s.terminal = some .halted := by
  simp [State.terminal, hf, hh]

/-! ## Ports and fetch -/

/-- A draw of the environment. -/
@[simp] theorem drawBits_apply (s : State) : drawBits s = .ok (Config.drawWord s.draws) s.countDraw := rfl

/-- A reading of the clock. -/
@[simp] theorem readClock_apply (s : State) :
    readClock s = .ok (Config.clockNow s.draws) ((s.setClock (Config.clockNow s.draws)).countDraw) := rfl

/-- A read of port 9 with nothing waiting. -/
theorem takeInput_nil {s : State} (h : s.inQueue = []) :
    takeInput s = .ok (Config.drawWord s.draws) s.countDraw := by
  have h' : s.countDraw.inQueue = [] := h
  simp only [takeInput, Act.bind_apply, drawBits_apply, look_apply, h', Act.pure_apply]

/-- A read of port 9 with a byte waiting. -/
theorem takeInput_cons {s : State} {b : Byte} {rest : List Byte} (h : s.inQueue = b :: rest) :
    takeInput s = .ok (inputWord (Config.drawWord s.draws) b) (s.countDraw.setInQueue rest) := by
  have h' : s.countDraw.inQueue = b :: rest := h
  simp only [takeInput, Act.bind_apply, drawBits_apply, look_apply, h', change_apply, Act.pure_apply]

/-- Reading a port changes nothing but the input queue, the clock and the count of draws, and never raises. -/
theorem portRead_cases (p : Port) (s : State) :
    ∃ v q c d, portRead p s = .ok v { s with inQueue := q, clock := c, draws := d } ∧
      (q = s.inQueue ∨ ∃ b, s.inQueue = b :: q) := by
  unfold portRead
  split
  · exact ⟨_, _, _, _, rfl, .inl rfl⟩
  · split
    · exact ⟨_, _, _, _, rfl, .inl rfl⟩
    · split
      · exact ⟨_, _, _, _, rfl, .inl rfl⟩
      · split
        · cases h : s.inQueue with
          | nil => exact ⟨_, s.inQueue, s.clock, _, takeInput_nil h, .inl h⟩
          | cons b rest => exact ⟨_, rest, s.clock, _, takeInput_cons h, .inr ⟨b, rfl⟩⟩
        · exact ⟨_, _, _, _, rfl, .inl rfl⟩

/-- Writing a port. -/
theorem portWrite_eq (p : Port) (v : Word) (s : State) :
    portWrite p v s = .ok () (if p = 12#8 then s.emit (v.setWidth 8) else s) := by
  unfold portWrite
  split <;> rfl

/-- The fetch: its two checks, then the word and the increment of the program counter. -/
theorem fetch_eq (s : State) :
    fetch s =
      if aligned s.pc 4 then
        (if s.mayAccess s.pc then .ok (s.mem.readWord s.pc) (s.setPc (s.pc + 4#20))
         else .error (.protectionError s.pc) s)
      else .error (.alignmentError s.pc 4) s := by
  simp only [fetch, Act.bind_apply, readPc_apply, memReadWord_eq]
  cases aligned s.pc 4 <;> cases s.mayAccess s.pc <;> rfl

end Sys2Proof.Machine
end

