-- ==== Sys2Proof/Laws/PerInstr.lean ====
section
/-! SUPPORT. Laws/PerInstr.lean: a fact of every instruction as syntax, one lemma per constructor: the word the encoder
writes carries the major opcode that the opcode map assigns to the instruction (30_encoding.md R80, R97). -/

namespace Sys2Proof.Laws

/-- The major opcode of an instruction, as the opcode map R97 lists it. -/
def opcodeOf : Instr → BitVec 5
  | .subR _ _ _ | .subI _ _ _ => 0b00000#5
  | .cpy _ _ | .cpyi _ _ | .cpyu _ _ => 0b00010#5
  | .ret | .reti => 0b00011#5
  | .addR _ _ _ | .addI _ _ _ => 0b00100#5
  | .andR _ _ _ | .andI _ _ _ => 0b00101#5
  | .ssspA _ | .ssspR _ => 0b00110#5
  | .callA _ | .callR _ | .callX _ _ | .scl _ => 0b01000#5
  | .ldbA _ _ | .ldbR _ _ | .ldbX _ _ _ => 0b01001#5
  | .ldsA _ _ | .ldsR _ _ | .ldsX _ _ _ => 0b01010#5
  | .ldwA _ _ | .ldwR _ _ | .ldwX _ _ _ => 0b01011#5
  | .orR _ _ _ | .orI _ _ _ => 0b01101#5
  | .inR _ _ | .inI _ _ | .outR _ _ | .outI _ _ => 0b01110#5
  | .mulbi _ _ _ | .mulsi _ _ _ | .mulwi _ _ _ | .mulbu _ _ _ | .mulsu _ _ _ | .mulwu _ _ _ => 0b01111#5
  | .shflR _ _ _ | .shflI _ _ _ | .shfrzR _ _ _ | .shfrzI _ _ _ | .shfraR _ _ _ | .shfraI _ _ _ => 0b10000#5
  | .halt => 0b10001#5
  | .xorR _ _ _ | .xorI _ _ _ => 0b10101#5
  | .not _ _ => 0b10110#5
  | .jcA _ _ _ _ | .jcR _ _ _ _ | .jcX _ _ _ _ _ | .jmpA _ | .jmpR _ | .jmpX _ _ => 0b10111#5
  | .neg _ _ => 0b11000#5
  | .cmpR _ _ | .cmpI _ _ => 0b11011#5
  | .stbA _ _ | .stbR _ _ | .stbX _ _ _ => 0b11100#5
  | .stsA _ _ | .stsR _ _ | .stsX _ _ _ => 0b11101#5
  | .stwA _ _ | .stwR _ _ | .stwX _ _ _ => 0b11110#5
  | .pushi _ | .pushu _ | .pushb _ | .pushs _ | .pushw _ | .popb _ | .pops _ | .popw _ => 0b11111#5

/-- Bits 31:27 of the instruction's word are its major opcode. -/
def OpcodeField.Statement (i : Instr) : Prop := field (encode i) 27 5 = opcodeOf i

/-- A field of a packed word is that field of the bits it was packed from. -/
theorem extract_pack {n : Nat} (x : BitVec n) (h : n = 32) (lo k : Nat) :
    (pack x h).extractLsb' lo k = x.extractLsb' lo k := by
  subst h
  rfl

/-- The statement for every instruction. -/
theorem opcodeField (i : Instr) : OpcodeField.Statement i := by
  unfold OpcodeField.Statement
  cases i <;>
    simp only [encode, opcodeOf, field, extract_pack, BitVec.extractLsb'_append_eq_of_le, Nat.reduceLeDiff,
      Nat.reduceSub] <;>
    rfl

theorem OpcodeField.addR (dr sr1 sr2 : Reg) : OpcodeField.Statement (.addR dr sr1 sr2) := opcodeField _

theorem OpcodeField.addI (dr sr1 : Reg) (imm16 : BitVec 16) : OpcodeField.Statement (.addI dr sr1 imm16) := opcodeField _

theorem OpcodeField.subR (dr sr1 sr2 : Reg) : OpcodeField.Statement (.subR dr sr1 sr2) := opcodeField _

theorem OpcodeField.subI (dr sr1 : Reg) (imm16 : BitVec 16) : OpcodeField.Statement (.subI dr sr1 imm16) := opcodeField _

theorem OpcodeField.mulbi (dr sr1 sr2 : Reg) : OpcodeField.Statement (.mulbi dr sr1 sr2) := opcodeField _

theorem OpcodeField.mulsi (dr sr1 sr2 : Reg) : OpcodeField.Statement (.mulsi dr sr1 sr2) := opcodeField _

theorem OpcodeField.mulwi (dr sr1 sr2 : Reg) : OpcodeField.Statement (.mulwi dr sr1 sr2) := opcodeField _

theorem OpcodeField.mulbu (dr sr1 sr2 : Reg) : OpcodeField.Statement (.mulbu dr sr1 sr2) := opcodeField _

theorem OpcodeField.mulsu (dr sr1 sr2 : Reg) : OpcodeField.Statement (.mulsu dr sr1 sr2) := opcodeField _

theorem OpcodeField.mulwu (dr sr1 sr2 : Reg) : OpcodeField.Statement (.mulwu dr sr1 sr2) := opcodeField _

theorem OpcodeField.neg (dr sr : Reg) : OpcodeField.Statement (.neg dr sr) := opcodeField _

theorem OpcodeField.cmpR (sr1 sr2 : Reg) : OpcodeField.Statement (.cmpR sr1 sr2) := opcodeField _

theorem OpcodeField.cmpI (sr1 : Reg) (imm16 : BitVec 16) : OpcodeField.Statement (.cmpI sr1 imm16) := opcodeField _

theorem OpcodeField.andR (dr sr1 sr2 : Reg) : OpcodeField.Statement (.andR dr sr1 sr2) := opcodeField _

theorem OpcodeField.andI (dr sr1 : Reg) (imm16 : BitVec 16) : OpcodeField.Statement (.andI dr sr1 imm16) := opcodeField _

theorem OpcodeField.orR (dr sr1 sr2 : Reg) : OpcodeField.Statement (.orR dr sr1 sr2) := opcodeField _

theorem OpcodeField.orI (dr sr1 : Reg) (imm16 : BitVec 16) : OpcodeField.Statement (.orI dr sr1 imm16) := opcodeField _

theorem OpcodeField.not (dr sr : Reg) : OpcodeField.Statement (.not dr sr) := opcodeField _

theorem OpcodeField.xorR (dr sr1 sr2 : Reg) : OpcodeField.Statement (.xorR dr sr1 sr2) := opcodeField _

theorem OpcodeField.xorI (dr sr1 : Reg) (imm16 : BitVec 16) : OpcodeField.Statement (.xorI dr sr1 imm16) := opcodeField _

theorem OpcodeField.shflR (dr sr1 sr2 : Reg) : OpcodeField.Statement (.shflR dr sr1 sr2) := opcodeField _

theorem OpcodeField.shflI (dr sr : Reg) (imm5 : BitVec 5) : OpcodeField.Statement (.shflI dr sr imm5) := opcodeField _

theorem OpcodeField.shfrzR (dr sr1 sr2 : Reg) : OpcodeField.Statement (.shfrzR dr sr1 sr2) := opcodeField _

theorem OpcodeField.shfrzI (dr sr : Reg) (imm5 : BitVec 5) : OpcodeField.Statement (.shfrzI dr sr imm5) := opcodeField _

theorem OpcodeField.shfraR (dr sr1 sr2 : Reg) : OpcodeField.Statement (.shfraR dr sr1 sr2) := opcodeField _

theorem OpcodeField.shfraI (dr sr : Reg) (imm5 : BitVec 5) : OpcodeField.Statement (.shfraI dr sr imm5) := opcodeField _

theorem OpcodeField.jcA (n p z : Bool) (addr20 : Addr) : OpcodeField.Statement (.jcA n p z addr20) := opcodeField _

theorem OpcodeField.jcR (n p z : Bool) (sr : Reg) : OpcodeField.Statement (.jcR n p z sr) := opcodeField _

theorem OpcodeField.jcX (n p z : Bool) (sr1 sr2 : Reg) : OpcodeField.Statement (.jcX n p z sr1 sr2) := opcodeField _

theorem OpcodeField.jmpA (addr20 : Addr) : OpcodeField.Statement (.jmpA addr20) := opcodeField _

theorem OpcodeField.jmpR (sr : Reg) : OpcodeField.Statement (.jmpR sr) := opcodeField _

theorem OpcodeField.jmpX (sr1 sr2 : Reg) : OpcodeField.Statement (.jmpX sr1 sr2) := opcodeField _

theorem OpcodeField.callA (addr20 : Addr) : OpcodeField.Statement (.callA addr20) := opcodeField _

theorem OpcodeField.callR (sr : Reg) : OpcodeField.Statement (.callR sr) := opcodeField _

theorem OpcodeField.callX (sr1 sr2 : Reg) : OpcodeField.Statement (.callX sr1 sr2) := opcodeField _

theorem OpcodeField.scl (imm6 : BitVec 6) : OpcodeField.Statement (.scl imm6) := opcodeField _

theorem OpcodeField.ret : OpcodeField.Statement (.ret) := opcodeField _

theorem OpcodeField.reti : OpcodeField.Statement (.reti) := opcodeField _

theorem OpcodeField.ldbA (dr : Reg) (addr20 : Addr) : OpcodeField.Statement (.ldbA dr addr20) := opcodeField _

theorem OpcodeField.ldbR (dr sr : Reg) : OpcodeField.Statement (.ldbR dr sr) := opcodeField _

theorem OpcodeField.ldbX (dr sr1 sr2 : Reg) : OpcodeField.Statement (.ldbX dr sr1 sr2) := opcodeField _

theorem OpcodeField.ldsA (dr : Reg) (addr20 : Addr) : OpcodeField.Statement (.ldsA dr addr20) := opcodeField _

theorem OpcodeField.ldsR (dr sr : Reg) : OpcodeField.Statement (.ldsR dr sr) := opcodeField _

theorem OpcodeField.ldsX (dr sr1 sr2 : Reg) : OpcodeField.Statement (.ldsX dr sr1 sr2) := opcodeField _

theorem OpcodeField.ldwA (dr : Reg) (addr20 : Addr) : OpcodeField.Statement (.ldwA dr addr20) := opcodeField _

theorem OpcodeField.ldwR (dr sr : Reg) : OpcodeField.Statement (.ldwR dr sr) := opcodeField _

theorem OpcodeField.ldwX (dr sr1 sr2 : Reg) : OpcodeField.Statement (.ldwX dr sr1 sr2) := opcodeField _

theorem OpcodeField.stbA (addr20 : Addr) (sr : Reg) : OpcodeField.Statement (.stbA addr20 sr) := opcodeField _

theorem OpcodeField.stbR (dr sr : Reg) : OpcodeField.Statement (.stbR dr sr) := opcodeField _

theorem OpcodeField.stbX (dr1 dr2 sr : Reg) : OpcodeField.Statement (.stbX dr1 dr2 sr) := opcodeField _

theorem OpcodeField.stsA (addr20 : Addr) (sr : Reg) : OpcodeField.Statement (.stsA addr20 sr) := opcodeField _

theorem OpcodeField.stsR (dr sr : Reg) : OpcodeField.Statement (.stsR dr sr) := opcodeField _

theorem OpcodeField.stsX (dr1 dr2 sr : Reg) : OpcodeField.Statement (.stsX dr1 dr2 sr) := opcodeField _

theorem OpcodeField.stwA (addr20 : Addr) (sr : Reg) : OpcodeField.Statement (.stwA addr20 sr) := opcodeField _

theorem OpcodeField.stwR (dr sr : Reg) : OpcodeField.Statement (.stwR dr sr) := opcodeField _

theorem OpcodeField.stwX (dr1 dr2 sr : Reg) : OpcodeField.Statement (.stwX dr1 dr2 sr) := opcodeField _

theorem OpcodeField.cpy (dr sr : Reg) : OpcodeField.Statement (.cpy dr sr) := opcodeField _

theorem OpcodeField.cpyi (dr : Reg) (imm16 : BitVec 16) : OpcodeField.Statement (.cpyi dr imm16) := opcodeField _

theorem OpcodeField.cpyu (dr : Reg) (imm16 : BitVec 16) : OpcodeField.Statement (.cpyu dr imm16) := opcodeField _

theorem OpcodeField.pushi (imm16 : BitVec 16) : OpcodeField.Statement (.pushi imm16) := opcodeField _

theorem OpcodeField.pushu (imm16 : BitVec 16) : OpcodeField.Statement (.pushu imm16) := opcodeField _

theorem OpcodeField.pushb (sr : Reg) : OpcodeField.Statement (.pushb sr) := opcodeField _

theorem OpcodeField.pushs (sr : Reg) : OpcodeField.Statement (.pushs sr) := opcodeField _

theorem OpcodeField.pushw (sr : Reg) : OpcodeField.Statement (.pushw sr) := opcodeField _

theorem OpcodeField.popb (dr : Reg) : OpcodeField.Statement (.popb dr) := opcodeField _

theorem OpcodeField.pops (dr : Reg) : OpcodeField.Statement (.pops dr) := opcodeField _

theorem OpcodeField.popw (dr : Reg) : OpcodeField.Statement (.popw dr) := opcodeField _

theorem OpcodeField.inR (dr sr : Reg) : OpcodeField.Statement (.inR dr sr) := opcodeField _

theorem OpcodeField.inI (dr : Reg) (imm8 : BitVec 8) : OpcodeField.Statement (.inI dr imm8) := opcodeField _

theorem OpcodeField.outR (dr sr : Reg) : OpcodeField.Statement (.outR dr sr) := opcodeField _

theorem OpcodeField.outI (imm8 : BitVec 8) (sr : Reg) : OpcodeField.Statement (.outI imm8 sr) := opcodeField _

theorem OpcodeField.ssspA (addr20 : Addr) : OpcodeField.Statement (.ssspA addr20) := opcodeField _

theorem OpcodeField.ssspR (sr : Reg) : OpcodeField.Statement (.ssspR sr) := opcodeField _

theorem OpcodeField.halt : OpcodeField.Statement (.halt) := opcodeField _

end Sys2Proof.Laws
end

