-- ==== Sys2Proof/Laws/Step.lean ====
section
/-! SUPPORT. Laws/Step.lean: everything one step can do, said once. Later proofs cite this and do not unfold `step`. -/

namespace Sys2Proof.Machine

/-- A step turns the cycle of a machine in no terminal state; in a terminal state it is one event of the environment,
or a stop when no event is to come. -/
theorem step_cases (s : State) :
    (s.terminal = none ∧ step s = cycle (environment s)) ∨
      ∃ r, s.terminal = some r ∧
        (s.arrivals = [] ∧ step s = .fault r ∨ s.arrivals ≠ [] ∧ step s = .next (environment s)) := by
  unfold step
  cases ht : s.terminal with
  | none => exact .inl ⟨rfl, rfl⟩
  | some r =>
    refine .inr ⟨r, rfl, ?_⟩
    cases s.arrivals with
    | nil => exact .inl ⟨rfl, rfl⟩
    | cons bs later => exact .inr ⟨List.cons_ne_nil _ _, rfl⟩

end Sys2Proof.Machine
end

