-- ==== Sys2Proof/Tests/Slice0.lean ====
section
/-! SUPPORT. Tests/Slice0.lean: small tests by evaluation, and for each statement with hypotheses a concrete case that
meets them. Expected results come from spec/95_test_vectors.md (the vector's number is in the name) or from the rule
named beside the test. -/

namespace Sys2Proof.Tests
open Sys2Proof.Machine

/-! ## Well-formedness: the one check refuses the one kind of ill-formed term -/

theorem test_wellFormed_refuses_jcA : (Instr.jcA true true true 0x00300#20).wellFormed = false := by decide
theorem test_wellFormed_refuses_jcR : (Instr.jcR true true true 1).wellFormed = false := by decide
theorem test_wellFormed_refuses_jcX : (Instr.jcX true true true 1 2).wellFormed = false := by decide
theorem test_wellFormed_accepts : (Instr.jcA true false true 0x00300#20).wellFormed = true := by decide

/-! ## Decoding: a word of every row, assembled from its format (95_test_vectors.md section 4) -/

/-- Every pair is a word and the instruction its fields spell. -/
def decodes (l : List (Word × Instr)) : Bool :=
  l.all fun c => decodeTableWord 32 c.1.toNat == some c.2 && encode c.2 == c.1

theorem test_decode_arithmetic :
    decodes
      [(0x25120019, .addR 20 9 25), (0x20c98001, .addI 3 4 0x8001), (0x05c6000d, .subR 23 3 13),
        (0x008b0012, .subI 2 5 0x0012), (0x7900688f, .mulbi 26 4 15), (0x7a001763, .mulsi 5 27 3),
        (0x7b001dc3, .mulwi 7 14 3), (0x7d00646e, .mulbu 25 3 14), (0x7e000912, .mulsu 2 8 18),
        (0x7f006927, .mulwu 26 9 7), (0xc000026b, .neg 19 11), (0xd80c000c, .cmpR 6 12),
        (0xd82f8001, .cmpI 23 0x8001)] = true := by
  decide

theorem test_decode_logic_and_shifts :
    decodes
      [(0x2906000d, .andR 4 3 13), (0x2ff7abcd, .andI 31 27 0xabcd), (0x6f7a0017, .orR 29 29 23),
        (0x6cdf7ffe, .orI 19 15 0x7ffe), (0xb00001e5, .not 15 5), (0xacfe0015, .xorR 19 31 21),
        (0xaf258001, .xorI 28 18 0x8001), (0x80003e8a, .shflR 7 26 10), (0x8000aa7f, .shflI 21 9 31),
        (0x8400d084, .shfrzR 26 2 4), (0x8400a576, .shfrzI 20 21 22), (0x8600ff44, .shfraR 31 29 4),
        (0x86002c7e, .shfraI 5 17 30)] = true := by
  decide

theorem test_decode_jumps :
    decodes
      [(0xb9012344, .jcA false false true 0x12344), (0xbe100001, .jcR true true false 1),
        (0xbe2000ff, .jcX true true false 7 31), (0xbf008124, .jmpA 0x08124), (0xbf10000d, .jmpR 13),
        (0xbf200248, .jmpX 18 8)] = true := by
  decide

theorem test_decode_calls_and_returns :
    decodes
      [(0x40000ff4, .callA 0x00ff4), (0x40100019, .callR 25), (0x4020033f, .callX 25 31),
        (0x4400000a, .scl 10), (0x18000000, .ret), (0x1c000000, .reti)] = true := by
  decide

theorem test_decode_loads :
    decodes
      [(0x4a812344, .ldbA 10 0x12344), (0x4e500011, .ldbR 25 17), (0x4a200371, .ldbX 8 27 17),
        (0x568ffffc, .ldsA 26 0xffffc), (0x5610000e, .ldsR 24 14), (0x526000ab, .ldsX 9 5 11),
        (0x5a400ff4, .ldwA 9 0x00ff4), (0x5b900000, .ldwR 14 0), (0x5fe00170, .ldwX 31 11 16)] = true := by
  decide

theorem test_decode_stores :
    decodes
      [(0xe1ffff80, .stbA 0xffffc 0), (0xe200013a, .stbR 9 26), (0xe4005e88, .stbX 23 20 8),
        (0xe810249d, .stsA 0x08124 29), (0xea000339, .stsR 25 25), (0xec006726, .stsX 25 25 6),
        (0xf0246899, .stwA 0x12344 25), (0xf200006c, .stwR 3 12), (0xf40011bc, .stwX 4 13 28)] = true := by
  decide

theorem test_decode_copies :
    decodes
      [(0x10280007, .cpy 10 7), (0x10568001, .cpyi 21 0x8001), (0x101b8001, .cpyu 6 0x8001)] = true := by
  decide

theorem test_decode_stack :
    decodes
      [(0xf8007ffe, .pushi 0x7ffe), (0xf8018001, .pushu 0x8001), (0xf9000017, .pushb 23),
        (0xfa000001, .pushs 1), (0xfb000004, .pushw 4), (0xfd00000d, .popb 13), (0xfe000018, .pops 24),
        (0xff000009, .popw 9)] = true := by
  decide

theorem test_decode_ports_and_system :
    decodes
      [(0x70002016, .inR 16 22), (0x70002ff2, .inI 23 242), (0x740000e7, .outR 7 7),
        (0x74003f3d, .outI 249 29), (0x30012344, .ssspA 0x12344), (0x3010001e, .ssspR 30),
        (0x88000000, .halt)] = true := by
  decide

/-! ## Decoding, the bits written out from each family's format -/

/-- opcode 00100, DR 3, SR1 4, bit 16 set, imm16 (R82). -/
theorem test_bits_add :
    decodeWord 0b00100_00011_00100_1_1000000000000001#32 = .ok (.addI 3 4 0x8001) := by
  decide

/-- opcode 01111, unsigned, size W, nine Reserved zeros, DR, SR1, SR2 (R83). -/
theorem test_bits_mulwu :
    decodeWord 0b01111_1_11_000000000_11010_01001_00111#32 = .ok (.mulwu 26 9 7) := by
  decide

/-- opcode 11000, seventeen Reserved zeros, DR, SR (R84). -/
theorem test_bits_neg :
    decodeWord 0b11000_00000000000000000_10011_01011#32 = .ok (.neg 19 11) := by
  decide

/-- opcode 10000, kind 11, nine Reserved zeros, DR, SR, bit 5 set, imm5 (R85). -/
theorem test_bits_shfra :
    decodeWord 0b10000_11_000000000_00101_10001_1_11110#32 = .ok (.shfraI 5 17 30) := by
  decide

/-- opcode 11011, Reserved, SR1, bit 16 clear, Reserved, SR2 (R82). -/
theorem test_bits_cmp :
    decodeWord 0b11011_00000_00110_0_00000000000_01100#32 = .ok (.cmpR 6 12) := by
  decide

/-- opcode 10111, n, p, z, Reserved, mode 10, Reserved, SR1, SR2 (R86). -/
theorem test_bits_jc :
    decodeWord 0b10111_1_1_0_00_10_0000000000_00111_11111#32 = .ok (.jcX true true false 7 31) := by
  decide

/-- opcode 10111, n = p = z = 1, Reserved, mode 00, addr20 (R86, R102). -/
theorem test_bits_jmp :
    decodeWord 0b10111_1_1_1_00_00_00001000000100100100#32 = .ok (.jmpA 0x08124) := by
  decide

/-- opcode 01000, bit 26 clear, Reserved, mode 01, Reserved, SR (R87). -/
theorem test_bits_call :
    decodeWord 0b01000_0_0000_01_000000000000000_11001#32 = .ok (.callR 25) := by
  decide

/-- opcode 01000, bit 26 set, twenty Reserved zeros, imm6 (R87). -/
theorem test_bits_scl :
    decodeWord 0b01000_1_00000000000000000000_001010#32 = .ok (.scl 10) := by
  decide

/-- opcode 00011, bit 26 set, Reserved zeros (R88). -/
theorem test_bits_reti :
    decodeWord 0b00011_1_00000000000000000000000000#32 = .ok (.reti) := by
  decide

/-- opcode 01010, DR, mode 00, addr20 (R89). -/
theorem test_bits_lds :
    decodeWord 0b01010_11010_00_11111111111111111100#32 = .ok (.ldsA 26 0xffffc) := by
  decide

/-- opcode 11100, mode 10, Reserved, DR1, DR2, SR (R90). -/
theorem test_bits_stb :
    decodeWord 0b11100_10_0000000000_10111_10100_01000#32 = .ok (.stbX 23 20 8) := by
  decide

/-- opcode 00010, Reserved, DR, selector 10, imm16 (R91; assumption log 17). -/
theorem test_bits_cpyi :
    decodeWord 0b00010_0000_10101_10_1000000000000001#32 = .ok (.cpyi 21 0x8001) := by
  decide

/-- opcode 11111, bit 26 clear, size 00, Reserved, bit 16 set, imm16 (R92). -/
theorem test_bits_pushu :
    decodeWord 0b11111_0_00_0000000_1_1000000000000001#32 = .ok (.pushu 0x8001) := by
  decide

/-- opcode 11111, bit 26 set, size W, Reserved, DR (R92). -/
theorem test_bits_popw :
    decodeWord 0b11111_1_11_0000000000000000000_01001#32 = .ok (.popw 9) := by
  decide

/-- opcode 01110, bit 26 clear, Reserved, DR, bit 8 clear, Reserved, SR (R93). -/
theorem test_bits_in :
    decodeWord 0b01110_0_000000000000_10000_0_000_10110#32 = .ok (.inR 16 22) := by
  decide

/-- opcode 01110, bit 26 set, Reserved, bit 13 set, imm8, SR (R93). -/
theorem test_bits_out :
    decodeWord 0b01110_1_000000000000_1_11111001_11101#32 = .ok (.outI 249 29) := by
  decide

/-- opcode 00110, Reserved, bit 20 set, Reserved, SR (R94). -/
theorem test_bits_sssp :
    decodeWord 0b00110_000000_1_000000000000000_11110#32 = .ok (.ssspR 30) := by
  decide

/-- opcode 10001, Reserved zeros (R80, R97). -/
theorem test_bits_halt :
    decodeWord 0b10001_000000000000000000000000000#32 = .ok (.halt) := by
  decide

/-- 95_test_vectors.md section 3.3: words that are no instruction. -/
theorem test_not_instructions :
    [0x08000000, 0x38000000, 0x60000000, 0x90000000, 0x98000000, 0xa0000000, 0xc8000000, 0xd0000000,
      0x78000000, 0x7c000000, 0x82000000, 0xb8300000, 0xbf300000, 0x40300000, 0x48300000, 0x58700000,
      0xe6000000, 0xf6000000, 0x10010000, 0xfc000000, 0xffffffff, 0x20000020, 0x20c20022, 0xd8420002,
      0xdc030001, 0xc0000400, 0x88000001, 0x18000001, 0x1c000001, 0x44000040, 0xf8020000, 0xf9000020,
      0xfd000020, 0x30200000, 0x70004000, 0x74004000, 0x10800000].all
      (fun w => (decodeTableWord 32 w).isNone) = true := by
  decide

/-! ## One step from a small state -/

/-- A state with the given mode, program counter, registers and memory words, about to fetch a word. -/
def start (ms : Word) (pc : Addr) (regs : List (Reg × Word)) (words : List (Addr × Word)) (w : Word) : State :=
  let s := regs.foldl (fun s r => s.setReg r.1 r.2) ((State.reset.setMs ms).setPc pc)
  (s.setMem (words.foldl (fun m x => m.writeWord x.1 x.2) s.mem)).withFetchWord 32 w.toNat

/-- A state as at reset but for the given registers and memory words, about to fetch a word. -/
def boot (regs : List (Reg × Word)) (words : List (Addr × Word)) (w : Word) : State :=
  start 0x00010001#32 0x00200#20 regs words w

/-- What a step leaves, seen through `f`; nothing if it gives no next state. -/
def after {α : Type} (s : State) (f : State → α) : Option α :=
  match step s with
  | .next t => some (f t)
  | _ => none

/-- `ADD R3, R1, R2`, vector A3. -/
theorem test_addR_A3 :
    after (boot [(1, 0xffffffff), (2, 0x00000001)] [] 0x20c20002)
      (fun t => (t.reg 3, t.ms)) =
      some (0x00000000#32, 0x00010001#32) := by
  decide

/-- `ADD R3, R1, -1`, vector A5. -/
theorem test_addI_A5 :
    after (boot [(1, 0x00000000)] [] 0x20c3ffff)
      (fun t => (t.reg 3, t.ms)) =
      some (0xffffffff#32, 0x00010004#32) := by
  decide

/-- `SUB R3, R1, R2`, vector A8. -/
theorem test_subR_A8 :
    after (boot [(1, 0x00000005), (2, 0x00000007)] [] 0x00c20002)
      (fun t => (t.reg 3, t.ms)) =
      some (0xfffffffe#32, 0x00010004#32) := by
  decide

/-- `SUB R3, R1, -1`, vector A12. -/
theorem test_subI_A12 :
    after (boot [(1, 0x7fffffff)] [] 0x00c3ffff)
      (fun t => (t.reg 3, t.ms)) =
      some (0x80000000#32, 0x00010004#32) := by
  decide

/-- `MULBI R3, R1, R2`, vector A13. -/
theorem test_mulbi_A13 :
    after (boot [(1, 0x123456fe), (2, 0x00000003), (3, 0xaaaa5555)] [] 0x79000c22)
      (fun t => (t.reg 3, t.ms)) =
      some (0xaaaafffa#32, 0x00010004#32) := by
  decide

/-- `MULSI R3, R1, R2`, vector A18. -/
theorem test_mulsi_A18 :
    after (boot [(1, 0xabcdffff), (2, 0x00000002), (3, 0x11111111)] [] 0x7a000c22)
      (fun t => (t.reg 3, t.ms)) =
      some (0xfffffffe#32, 0x00010004#32) := by
  decide

/-- `MULWI R2, R0, R1`, vector A22. -/
theorem test_mulwi_A22 :
    after (boot [(0, 0xffffffff), (1, 0x00000002)] [] 0x7b000801)
      (fun t => (t.reg 2, t.reg 3, t.ms)) =
      some (0xfffffffe#32, 0xffffffff#32, 0x00010004#32) := by
  decide

/-- `MULBU R3, R1, R2`, vector A15. -/
theorem test_mulbu_A15 :
    after (boot [(1, 0x123456fe), (2, 0x00000003), (3, 0xaaaa5555)] [] 0x7d000c22)
      (fun t => (t.reg 3, t.ms)) =
      some (0xaaaa02fa#32, 0x00010002#32) := by
  decide

/-- `MULSU R3, R1, R2`, vector A21. -/
theorem test_mulsu_A21 :
    after (boot [(1, 0x0000ffff), (2, 0x0000ffff)] [] 0x7e000c22)
      (fun t => (t.reg 3, t.ms)) =
      some (0xfffe0001#32, 0x00010004#32) := by
  decide

/-- `MULWU R12, R1, R2`, vector A27. -/
theorem test_mulwu_A27 :
    after (boot [(1, 0x00010000), (2, 0x00030000), (5, 0x00000055), (13, 0x00000077)] [] 0x7f003022)
      (fun t => (t.reg 12, t.reg 13, t.reg 5, t.ms)) =
      some (0x00000000#32, 0x00000077#32, 0x00000003#32, 0x00010002#32) := by
  decide

/-- `NEG R2, R1`, vector A33. -/
theorem test_neg_A33 :
    after (boot [(1, 0x80000000)] [] 0xc0000041)
      (fun t => (t.reg 2, t.ms)) =
      some (0x80000000#32, 0x00010004#32) := by
  decide

/-- `CMP R1, R2`, vector A36. -/
theorem test_cmpR_A36 :
    after (boot [(1, 0x80000000), (2, 0x00000001)] [] 0xd8020002)
      (fun t => (t.reg 1, t.reg 2, t.ms)) =
      some (0x80000000#32, 0x00000001#32, 0x00010002#32) := by
  decide

/-- `CMP R1, -1`, vector A38. -/
theorem test_cmpI_A38 :
    after (boot [(1, 0xffffffff)] [] 0xd803ffff)
      (fun t => (t.reg 1, t.ms)) =
      some (0xffffffff#32, 0x00010001#32) := by
  decide

/-- `AND R3, R1, R2`, vector B2. -/
theorem test_andR_B2 :
    after (boot [(1, 0xf0f0f0f0), (2, 0xff00ff00)] [] 0x28c20002)
      (fun t => (t.reg 3, t.ms)) =
      some (0xf000f000#32, 0x00010004#32) := by
  decide

/-- `AND R3, R1, 0x8000`, vector B4. -/
theorem test_andI_B4 :
    after (boot [(1, 0xffff1234)] [] 0x28c38000)
      (fun t => (t.reg 3, t.ms)) =
      some (0xffff0000#32, 0x00010004#32) := by
  decide

/-- `OR R3, R1, R2`, vector B5. -/
theorem test_orR_B5 :
    after (boot [(1, 0x00000001), (2, 0x00000002)] [] 0x68c20002)
      (fun t => (t.reg 3, t.ms)) =
      some (0x00000003#32, 0x00010002#32) := by
  decide

/-- `OR R3, R1, 0x8000`, vector B7. -/
theorem test_orI_B7 :
    after (boot [(1, 0x00000001)] [] 0x68c38000)
      (fun t => (t.reg 3, t.ms)) =
      some (0xffff8001#32, 0x00010004#32) := by
  decide

/-- `NOT R2, R1`, vector B11. -/
theorem test_not_B11 :
    after (boot [(1, 0x80000000)] [] 0xb0000041)
      (fun t => (t.reg 2, t.ms)) =
      some (0x7fffffff#32, 0x00010002#32) := by
  decide

/-- `XOR R3, R1, R2`, vector B12. -/
theorem test_xorR_B12 :
    after (boot [(1, 0xff00ff00), (2, 0x0ff00ff0)] [] 0xa8c20002)
      (fun t => (t.reg 3, t.ms)) =
      some (0xf0f0f0f0#32, 0x00010004#32) := by
  decide

/-- `XOR R3, R1, -1`, vector B14. -/
theorem test_xorI_B14 :
    after (boot [(1, 0x0000ffff)] [] 0xa8c3ffff)
      (fun t => (t.reg 3, t.ms)) =
      some (0xffff0000#32, 0x00010004#32) := by
  decide

/-- `SHFL R3, R1, R2`, vector B20. -/
theorem test_shflR_B20 :
    after (boot [(1, 0xffffffff), (2, 0x80000001)] [] 0x80001842)
      (fun t => (t.reg 3, t.ms)) =
      some (0x00000000#32, 0x00010001#32) := by
  decide

/-- `SHFL R2, R1, 31`, vector B17. -/
theorem test_shflI_B17 :
    after (boot [(1, 0x00000003)] [] 0x8000107f)
      (fun t => (t.reg 2, t.ms)) =
      some (0x80000000#32, 0x00010004#32) := by
  decide

/-- `SHFRZ R3, R1, R2`, vector B23. -/
theorem test_shfrzR_B23 :
    after (boot [(1, 0x80000000), (2, 0x00000020)] [] 0x84001842)
      (fun t => (t.reg 3, t.ms)) =
      some (0x00000000#32, 0x00010001#32) := by
  decide

/-- `SHFRZ R2, R1, 31`, vector B22. -/
theorem test_shfrzI_B22 :
    after (boot [(1, 0x80000000)] [] 0x8400107f)
      (fun t => (t.reg 2, t.ms)) =
      some (0x00000001#32, 0x00010002#32) := by
  decide

/-- `SHFRA R3, R1, R2`, vector B28. -/
theorem test_shfraR_B28 :
    after (boot [(1, 0x80000000), (2, 0x00000020)] [] 0x86001842)
      (fun t => (t.reg 3, t.ms)) =
      some (0xffffffff#32, 0x00010004#32) := by
  decide

/-- `SHFRA R2, R1, 31`, vector B27. -/
theorem test_shfraI_B27 :
    after (boot [(1, 0x80000000)] [] 0x8600107f)
      (fun t => (t.reg 2, t.ms)) =
      some (0xffffffff#32, 0x00010004#32) := by
  decide

/-- `JCnz 0x00300`, vector C7. -/
theorem test_jcA_C7 :
    after (start 0x00010001 0x00200 [] [] 0xbd000300)
      (fun t => (t.ms, t.pc)) =
      some (0x00010001#32, 0x00300#20) := by
  decide

/-- `JCz 0x00302`, vector C9. -/
theorem test_jcA_C9 :
    after (start 0x00010001 0x00200 [] [] 0xb9000302)
      (fun t => (t.ms, t.fault)) =
      some (0x00010001#32, some (.alignmentError 0x00302#20 4)) := by
  decide

/-- `JCz [R1]`, vector C11. -/
theorem test_jcR_C11 :
    after (boot [(1, 0xabc00400)] [] 0xb9100001)
      (fun t => (t.ms, t.pc)) =
      some (0x00010001#32, 0x00400#20) := by
  decide

/-- `JCz [R1+R2]`, vector C12. -/
theorem test_jcX_C12 :
    after (boot [(1, 0x000ffffc), (2, 0x00000008)] [] 0xb9200022)
      (fun t => (t.ms, t.pc)) =
      some (0x00010001#32, 0x00004#20) := by
  decide

/-- `JMP 0x00300`, vector C14. -/
theorem test_jmpA_C14 :
    after (start 0x00010000 0x00200 [] [] 0xbf000300)
      (fun t => (t.ms, t.pc)) =
      some (0x00010000#32, 0x00300#20) := by
  decide

/-- `JMP [R1]`, vector C15. -/
theorem test_jmpR_C15 :
    after (boot [(1, 0x00000401)] [] 0xbf100001)
      (fun t => (t.ms, t.fault)) =
      some (0x00010001#32, some (.alignmentError 0x00401#20 4)) := by
  decide

/-- `JMP [R1+R2]`, vector C16. -/
theorem test_jmpX_C16 :
    after (boot [(1, 0x00000400), (2, 0xfffffffc)] [] 0xbf200022)
      (fun t => (t.ms, t.pc)) =
      some (0x00010001#32, 0x003fc#20) := by
  decide

/-- `CALL 0x00300`, vector C22. -/
theorem test_callA_C22 :
    after (boot [(15, 0x00000000)] [] 0x40000300)
      (fun t => (t.reg 15, wordAt t 0xffffc#20, t.ms, t.pc)) =
      some (0xfffffffc#32, 0x00000204#32, 0x00010001#32, 0x00300#20) := by
  decide

/-- `CALL 0x00302`, vector C21. -/
theorem test_callA_C21 :
    after (boot [(15, 0x00007000)] [] 0x40000302)
      (fun t => (t.reg 15, wordAt t 0x06ffc#20, t.ms, t.fault)) =
      some (0x00006ffc#32, 0x00000204#32, 0x00010001#32, some (.alignmentError 0x00302#20 4)) := by
  decide

/-- `CALL [R15]`, vector C24. -/
theorem test_callR_C24 :
    after (boot [(15, 0x00007000)] [] 0x4010000f)
      (fun t => (t.reg 15, wordAt t 0x06ffc#20, t.ms, t.pc)) =
      some (0x00006ffc#32, 0x00000204#32, 0x00010001#32, 0x06ffc#20) := by
  decide

/-- `CALL [R1+R2]`, vector C20. -/
theorem test_callX_C20 :
    after (boot [(15, 0x00007000), (1, 0x00000500), (2, 0x00000020)] [] 0x40200022)
      (fun t => (t.reg 15, wordAt t 0x06ffc#20, t.ms, t.pc)) =
      some (0x00006ffc#32, 0x00000204#32, 0x00010001#32, 0x00520#20) := by
  decide

/-- `SCL 63`, vector C33. -/
theorem test_scl_C33 :
    after ((start 0x00000004 0x08000 [(15, 0x0000f000)] [(0x001fc, 0xfff00404)] 0x4400003f).setSsp 0x07000)
      (fun t => (t.reg 15, wordAt t 0x06ffc#20, wordAt t 0x06ff8#20, wordAt t 0x06ff4#20, t.ms, t.pc, t.ssp)) =
      some (0x00006ff4#32, 0x0000f000#32, 0x00000004#32, 0x00008004#32, 0x00010004#32, 0x00404#20, 0x07000#20) := by
  decide

/-- `SCL 5`, vector C34. -/
theorem test_scl_C34 :
    after ((start 0x00000002 0x08000 [(15, 0x0000f000)] [] 0x44000005).setSsp 0x07000)
      (fun t => (t.reg 15, t.ms, t.pc, t.ssp, t.fault)) =
      some (0x0000f000#32, 0x00000002#32, 0x08004#20, 0x07000#20, some (.sctDisabled 5#6)) := by
  decide

/-- `RET`, vector C26. -/
theorem test_ret_C26 :
    after (boot [(15, 0x00006ffc)] [(0x06ffc, 0xfff00210)] 0x18000000)
      (fun t => (t.reg 15, t.ms, t.pc)) =
      some (0x00007000#32, 0x00010001#32, 0x00210#20) := by
  decide

/-- `RET`, vector C27. -/
theorem test_ret_C27 :
    after (boot [(15, 0x00006ffc)] [(0x06ffc, 0x00000211)] 0x18000000)
      (fun t => (t.reg 15, t.ms, t.fault)) =
      some (0x00007000#32, 0x00010001#32, some (.alignmentError 0x00211#20 4)) := by
  decide

/-- `RETI`, vector C30. -/
theorem test_reti_C30 :
    after (boot [(15, 0x00006ff4)] [(0x06ff4, 0x00008000), (0x06ff8, 0xfffe0007), (0x06ffc, 0x0000f000)] 0x1c000000)
      (fun t => (t.reg 15, t.ms, t.pc)) =
      some (0x0000f000#32, 0xfffe0007#32, 0x08000#20) := by
  decide

/-- `RETI`, vector C31. -/
theorem test_reti_C31 :
    after (boot [(15, 0x00006ff4)] [(0x06ff4, 0x00008002), (0x06ff8, 0x00000002), (0x06ffc, 0x0000f000)] 0x1c000000)
      (fun t => (t.reg 15, t.ms, t.fault)) =
      some (0x00006ff8#32, 0x00010001#32, some (.alignmentError 0x08002#20 4)) := by
  decide

/-- `LDB R1, 0x01000`, vector D1. -/
theorem test_ldbA_D1 :
    after (boot [] [(0x01000, 0x8877ff80), (0x01004, 0)] 0x48401000)
      (fun t => (t.reg 1, t.ms)) =
      some (0xffffff80#32, 0x00010004#32) := by
  decide

/-- `LDB R1, [R2]`, vector D12. -/
theorem test_ldbR_D12 :
    after (boot [(2, 0x00001003)] [(0x01000, 0x8877ff80), (0x01004, 0)] 0x48500002)
      (fun t => (t.reg 1, t.ms)) =
      some (0xffffff88#32, 0x00010004#32) := by
  decide

/-- `LDB R1, [R2+R3]`, vector D14. -/
theorem test_ldbX_D14 :
    after (boot [(2, 0x00001000), (3, 0x00000001)] [(0x01000, 0x8877ff80), (0x01004, 0)] 0x48600043)
      (fun t => (t.reg 1, t.ms)) =
      some (0xffffffff#32, 0x00010004#32) := by
  decide

/-- `LDS R1, 0x01002`, vector D6. -/
theorem test_ldsA_D6 :
    after (boot [] [(0x01000, 0x8877ff80), (0x01004, 0)] 0x50401002)
      (fun t => (t.reg 1, t.ms)) =
      some (0xffff8877#32, 0x00010004#32) := by
  decide

/-- `LDS R1, [R2]`, vector D11. -/
theorem test_ldsR_D11 :
    after (boot [(2, 0x00001002)] [(0x01000, 0x8877ff80), (0x01004, 0)] 0x50500002)
      (fun t => (t.reg 1, t.ms)) =
      some (0xffff8877#32, 0x00010004#32) := by
  decide

/-- `LDS R1, [R2+R3]`, vector D15. -/
theorem test_ldsX_D15 :
    after (boot [(2, 0x00001000), (3, 0x00000003)] [(0x01000, 0x8877ff80), (0x01004, 0)] 0x50600043)
      (fun t => (t.reg 1, t.ms, t.fault)) =
      some (0x00000000#32, 0x00010001#32, some (.alignmentError 0x01003#20 2)) := by
  decide

/-- `LDW R1, 0x01000`, vector D8. -/
theorem test_ldwA_D8 :
    after (boot [] [(0x01000, 0x8877ff80), (0x01004, 0)] 0x58401000)
      (fun t => (t.reg 1, t.ms)) =
      some (0x8877ff80#32, 0x00010004#32) := by
  decide

/-- `LDW R1, 0x07ffc`, vector G1. -/
theorem test_ldwA_G1 :
    after (start 0x00000002 0x08000 [(1, 0x00000005)] [(0x07ffc, 0x11223344)] 0x58407ffc)
      (fun t => (t.reg 1, t.ms, t.pc, t.fault)) =
      some (0x00000005#32, 0x00000002#32, 0x08004#20, some (.protectionError 0x07ffc#20)) := by
  decide

/-- `LDW R1, [R2]`, vector D10. -/
theorem test_ldwR_D10 :
    after (boot [(2, 0xfff01000)] [(0x01000, 0x8877ff80), (0x01004, 0)] 0x58500002)
      (fun t => (t.reg 1, t.ms)) =
      some (0x8877ff80#32, 0x00010004#32) := by
  decide

/-- `LDW R1, [R2+R3]`, vector D13. -/
theorem test_ldwX_D13 :
    after (boot [(2, 0x00001008), (3, 0xfffffff8)] [(0x01000, 0x8877ff80), (0x01004, 0)] 0x58600043)
      (fun t => (t.reg 1, t.ms)) =
      some (0x8877ff80#32, 0x00010004#32) := by
  decide

/-- `STB 0x01003, R1`, vector D19. -/
theorem test_stbA_D19 :
    after (boot [(1, 0x12345678)] [(0x01000, 0xaaaaaaaa)] 0xe0020061)
      (fun t => (wordAt t 0x01000#20, t.ms)) =
      some (0x78aaaaaa#32, 0x00010001#32) := by
  decide

/-- `STB [R2], R1`, vector D27. -/
theorem test_stbR_D27 :
    after (boot [(1, 0x12345678), (2, 0x00001001)] [(0x01000, 0xaaaaaaaa)] 0xe2000041)
      (fun t => (wordAt t 0x01000#20, t.ms)) =
      some (0xaaaa78aa#32, 0x00010001#32) := by
  decide

/-- `STB [R2+R3], R1`, vector D29. -/
theorem test_stbX_D29 :
    after (boot [(1, 0x12345678), (2, 0x00100000), (3, 0x00001002)] [(0x01000, 0xaaaaaaaa)] 0xe4000861)
      (fun t => (wordAt t 0x01000#20, t.ms)) =
      some (0xaa78aaaa#32, 0x00010001#32) := by
  decide

/-- `STS 0x01002, R1`, vector D20. -/
theorem test_stsA_D20 :
    after (boot [(1, 0x12345678)] [(0x01000, 0xaaaaaaaa)] 0xe8020041)
      (fun t => (wordAt t 0x01000#20, t.ms)) =
      some (0x5678aaaa#32, 0x00010001#32) := by
  decide

/-- `STS [R2], R1`, vector D26. -/
theorem test_stsR_D26 :
    after (boot [(1, 0x12345678), (2, 0x00001000)] [(0x01000, 0xaaaaaaaa)] 0xea000041)
      (fun t => (wordAt t 0x01000#20, t.ms)) =
      some (0xaaaa5678#32, 0x00010001#32) := by
  decide

/-- `STS [R2+R3], R1`, vector D30. -/
theorem test_stsX_D30 :
    after (boot [(1, 0x12345678), (2, 0x00001000), (3, 0x00000001)] [(0x01000, 0xaaaaaaaa)] 0xec000861)
      (fun t => (wordAt t 0x01000#20, t.ms, t.fault)) =
      some (0xaaaaaaaa#32, 0x00010001#32, some (.alignmentError 0x01001#20 2)) := by
  decide

/-- `STW 0x01000, R1`, vector D22. -/
theorem test_stwA_D22 :
    after (boot [(1, 0x12345678)] [(0x01000, 0xaaaaaaaa)] 0xf0020001)
      (fun t => (wordAt t 0x01000#20, t.ms)) =
      some (0x12345678#32, 0x00010001#32) := by
  decide

/-- `STW 0x07ffe, R1`, vector G8. -/
theorem test_stwA_G8 :
    after (start 0x00000002 0x08000 [(1, 0x00000005)] [(0x07ffc, 0x11223344)] 0xf00fffc1)
      (fun t => (wordAt t 0x07ffc#20, t.ms, t.pc, t.fault)) =
      some (0x11223344#32, 0x00000002#32, 0x08004#20, some (.alignmentError 0x07ffe#20 4)) := by
  decide

/-- `STW [R2], R1`, vector D25. -/
theorem test_stwR_D25 :
    after (boot [(1, 0x12345678), (2, 0xabc01000)] [(0x01000, 0xaaaaaaaa)] 0xf2000041)
      (fun t => (wordAt t 0x01000#20, t.ms)) =
      some (0x12345678#32, 0x00010001#32) := by
  decide

/-- `STW [R2+R3], R1`, vector D28. -/
theorem test_stwX_D28 :
    after (boot [(1, 0x12345678), (2, 0x00000ffc), (3, 0x00000004)] [(0x01000, 0xaaaaaaaa)] 0xf4000861)
      (fun t => (wordAt t 0x01000#20, t.ms)) =
      some (0x12345678#32, 0x00010001#32) := by
  decide

/-- `CPY R2, R1`, vector E1. -/
theorem test_cpy_E1 :
    after (boot [(1, 0x80000000), (2, 0x00000005)] [] 0x10080001)
      (fun t => (t.reg 2, t.ms)) =
      some (0x80000000#32, 0x00010001#32) := by
  decide

/-- `CPYI R1, -32768`, vector E5. -/
theorem test_cpyi_E5 :
    after (boot [] [] 0x10068000)
      (fun t => (t.reg 1, t.ms)) =
      some (0xffff8000#32, 0x00010001#32) := by
  decide

/-- `CPYU R1, 0x8000`, vector E7. -/
theorem test_cpyu_E7 :
    after (boot [(1, 0xffffffff)] [] 0x10078000)
      (fun t => (t.reg 1, t.ms)) =
      some (0x00008000#32, 0x00010001#32) := by
  decide

/-- `PUSHI -2`, vector E9. -/
theorem test_pushi_E9 :
    after (boot [(15, 0x00007000)] [] 0xf800fffe)
      (fun t => (t.reg 15, wordAt t 0x06ffc#20, t.ms)) =
      some (0x00006ffc#32, 0xfffffffe#32, 0x00010001#32) := by
  decide

/-- `PUSHU 0xfffe`, vector E11. -/
theorem test_pushu_E11 :
    after (boot [(15, 0x00007000)] [] 0xf801fffe)
      (fun t => (t.reg 15, wordAt t 0x06ffc#20, t.ms)) =
      some (0x00006ffc#32, 0x0000fffe#32, 0x00010001#32) := by
  decide

/-- `PUSHB R1`, vector E12. -/
theorem test_pushb_E12 :
    after (boot [(15, 0x00007000), (1, 0x12345680)] [] 0xf9000001)
      (fun t => (t.reg 15, wordAt t 0x06ffc#20, t.ms)) =
      some (0x00006ffc#32, 0xffffff80#32, 0x00010001#32) := by
  decide

/-- `PUSHS R1`, vector E14. -/
theorem test_pushs_E14 :
    after (boot [(15, 0x00007000), (1, 0x12348001)] [] 0xfa000001)
      (fun t => (t.reg 15, wordAt t 0x06ffc#20, t.ms)) =
      some (0x00006ffc#32, 0xffff8001#32, 0x00010001#32) := by
  decide

/-- `PUSHW R15`, vector E17. -/
theorem test_pushw_E17 :
    after (boot [(15, 0x00007000)] [] 0xfb00000f)
      (fun t => (t.reg 15, wordAt t 0x06ffc#20, t.ms)) =
      some (0x00006ffc#32, 0x00006ffc#32, 0x00010001#32) := by
  decide

/-- `PUSHW R1`, vector G9. -/
theorem test_pushw_G9 :
    after (start 0x00000002 0x08000 [(1, 0x00000005), (15, 0x00008000)] [(0x07ffc, 0x11223344)] 0xfb000001)
      (fun t => (t.reg 15, wordAt t 0x07ffc#20, t.ms, t.pc, t.fault)) =
      some (0x00007ffc#32, 0x11223344#32, 0x00000002#32, 0x08004#20, some (.protectionError 0x07ffc#20)) := by
  decide

/-- `POPB R15`, vector E26. -/
theorem test_popb_E26 :
    after (boot [(15, 0x00006ffc)] [(0x06ffc, 0x00000011)] 0xfd00000f)
      (fun t => (t.reg 15, t.ms)) =
      some (0x00006f15#32, 0x00010001#32) := by
  decide

/-- `POPS R1`, vector E22. -/
theorem test_pops_E22 :
    after (boot [(15, 0x00006ffc), (1, 0xffffffff)] [(0x06ffc, 0x12345678)] 0xfe000001)
      (fun t => (t.reg 1, t.reg 15, t.ms)) =
      some (0xffff5678#32, 0x00007000#32, 0x00010001#32) := by
  decide

/-- `POPW R15`, vector E25. -/
theorem test_popw_E25 :
    after (boot [(15, 0x00006ffc)] [(0x06ffc, 0x00001000)] 0xff00000f)
      (fun t => (t.reg 15, t.ms)) =
      some (0x00001004#32, 0x00010001#32) := by
  decide

/-- `IN R1, R2`, vector F4. -/
theorem test_inR_F4 :
    after ((boot [(2, 0xffffff09)] [] 0x70000202).setInQueue [0x80])
      (fun t => t.inQueue) =
      some [] := by
  decide

/-- `IN R1, 8`, vector F7. -/
theorem test_inI_F7 :
    after ((start 0x00000002 0x08000 [(1, 0x00000007)] [] 0x70000308).setInQueue [0x68])
      (fun t => (t.reg 1, t.ms, t.pc, t.inQueue, t.fault)) =
      some (0x00000007#32, 0x00000002#32, 0x08004#20, [0x68#8], some .privilegeViolation) := by
  decide

/-- `OUT R2, R1`, vector F9. -/
theorem test_outR_F9 :
    after (boot [(1, 0x0000000a), (2, 0xabcdef0c)] [] 0x74000041)
      (fun t => (t.ms, t.output)) =
      some (0x00010001#32, [0x0a#8]) := by
  decide

/-- `OUT 12, R1`, vector F8. -/
theorem test_outI_F8 :
    after (boot [(1, 0x12345641)] [] 0x74002181)
      (fun t => (t.ms, t.output)) =
      some (0x00010001#32, [0x41#8]) := by
  decide

/-- `OUT 4, R1`, vector F10. -/
theorem test_outI_F10 :
    after (boot [(1, 0x0000000a)] [] 0x74002081)
      (fun t => t.ms) =
      some 0x00010001#32 := by
  decide

/-- `SSSP 0x07000`, vector F12. -/
theorem test_ssspA_F12 :
    after (boot [] [] 0x30007000)
      (fun t => (t.ms, t.ssp)) =
      some (0x00010001#32, 0x07000#20) := by
  decide

/-- `SSSP 0x07002`, vector F17. -/
theorem test_ssspA_F17 :
    after ((start 0x00000002 0x08000 [] [] 0x30007002).setSsp 0x01000)
      (fun t => (t.ms, t.pc, t.ssp, t.fault)) =
      some (0x00000002#32, 0x08004#20, 0x01000#20, some .privilegeViolation) := by
  decide

/-- `SSSP R3`, vector F14. -/
theorem test_ssspR_F14 :
    after (boot [(3, 0xabc07ffc)] [] 0x30100003)
      (fun t => (t.ms, t.ssp)) =
      some (0x00010001#32, 0x07ffc#20) := by
  decide

/-- `HALT`, vector F18. -/
theorem test_halt_F18 :
    after (boot [] [] 0x88000000)
      (fun t => (t.ms, t.halted)) =
      some (0x00010001#32, true) := by
  decide

/-- `HALT`, vector F19. -/
theorem test_halt_F19 :
    after (start 0x00000001 0x08000 [] [] 0x88000000)
      (fun t => (t.ms, t.pc, t.fault)) =
      some (0x00000001#32, 0x08004#20, some .privilegeViolation) := by
  decide

/-! ## Interrupts, fetch and the end of a run (95_test_vectors.md section 3) -/

/-- The user-mode machine of vectors H1 to H4, with an entry for vector 8. -/
def userPending (entry : Word) : State :=
  ((start 0x00000002#32 0x08008#20 [(15, 0x0000f000)] [(0x00020, entry)] 0#32).setSsp 0x07000#20).setPending [8]

/-- The supervisor-mode machine of vector H2. -/
def supervisorPending : State :=
  ((start 0x00010004#32 0x00240#20 [(15, 0x00006000)] [(0x00020, 0x80000500)] 0#32).setSsp 0x07000#20).setPending [8]

theorem test_interrupt_H1 :
    after (userPending 0x80000500#32) (fun t => (t.reg 15, t.ms, t.pc, t.pending)) =
      some (0x00006ff4#32, 0x00010002#32, 0x00500#20, []) := by
  decide

theorem test_interrupt_H1_frame :
    after (userPending 0x80000500#32) (fun t => (wordAt t 0x06ffc#20, wordAt t 0x06ff8#20, wordAt t 0x06ff4#20)) =
      some (0x0000f000#32, 0x00000002#32, 0x00008008#32) := by
  decide

theorem test_interrupt_H2 :
    after supervisorPending (fun t => (t.reg 15, wordAt t 0x05ffc#20, wordAt t 0x05ff8#20, t.ms, t.pc)) =
      some (0x00005ff8#32, 0x00010004#32, 0x00000240#32, 0x00010004#32, 0x00500#20) := by
  decide

theorem test_interrupt_H3 :
    after (userPending 0x00000500#32) (fun t => (t.reg 15, t.ms, t.pc, t.pending)) =
      some (0x0000f000#32, 0x00000002#32, 0x08008#20, []) := by
  decide

theorem test_interrupt_H4 :
    after (userPending 0x80000502#32) (fun t => (t.fault, t.reg 15, t.ms, t.pc, t.pending)) =
      some (some (.alignmentError 0x00502#20 4), 0x00006ff4#32, 0x00010002#32, 0x08008#20, []) := by
  decide

theorem test_fetch_K1 :
    after (start 0x00010001#32 0xffffc#20 [] [] 0x20430001#32) (fun t => (t.reg 1, t.ms, t.pc)) =
      some (0x00000001#32, 0x00010002#32, 0x00000#20) := by
  decide

theorem test_fetch_K2 :
    after (start 0x00000002#32 0x00400#20 [] [] 0x88000000#32) (fun t => (t.fault, t.pc, t.halted)) =
      some (some (.protectionError 0x00400#20), 0x00400#20, false) := by
  decide

theorem test_fetch_K4 :
    after (State.reset.setPc 0x00000#20) (fun t => (t.reg 0, t.ms, t.pc)) =
      some (0x00000000#32, 0x00010001#32, 0x00004#20) := by
  decide

theorem test_halted_K5 : step (supervisorPending.halt) = .fault .halted := rfl

/-- Bytes that arrive in the halted state lengthen the queue and make vector 8 pending; nothing else changes (R301). -/
theorem test_arrival_halted :
    step ((State.reset.halt.setPending [3]).setArrivals [[0x41]]) =
      .next ((State.reset.halt.setPending [3, 8]).setInQueue [0x41]) :=
  rfl

/-- A Faulted machine with a byte in its queue. -/
def faulted : State := (State.reset.withFault .privilegeViolation).setInQueue [0x40]

/-- The same in the Faulted state, with the next boundary's event still to come (R301). -/
theorem test_arrival_faulted :
    step (faulted.setArrivals [[0x41], []]) =
      .next (((faulted.setInQueue [0x40, 0x41]).setPending [8]).setArrivals [[]]) :=
  rfl

theorem test_illegal_word :
    after (boot [] [] 0x08000000#32) (fun t => (t.fault, t.pc)) =
      some (some (.illegalInstruction 0x08000000#32), 0x00204#20) := by
  decide

/-- The environment's bytes land at the boundary and raise vector 8, which is serviced in the same step (R277, R297). -/
theorem test_arrival :
    after ((boot [] [(0x00020, 0x80000500)] 0#32).setArrivals [[0x41, 0x42]]) (fun t => (t.inQueue, t.pc, t.pending)) =
      some ([0x41#8, 0x42#8], 0x00500#20, []) := by
  decide

/-! ## Witnesses: for each statement with hypotheses, and each of its clauses, a case that meets them together -/

/-- A user-mode state at 0x08000 with the given R15. -/
def userAt (sp : Word) : State := start 0x00000002#32 0x08000#20 [(15, sp)] [] 0#32

/-- A supervisor-mode state with the given R15 and memory words. -/
def kernelAt (sp : Word) (words : List (Addr × Word)) : State := boot [(15, sp)] words 0#32

theorem witness_DecodeInvertsEncode : (Instr.jcX true true false 31 31).WellFormed := by decide

theorem witness_EncodeInvertsDecode : decodeWord 0xff00001f#32 = .ok (.popw 31) := by decide

theorem witness_UnassignedWordsRejected_opcodes :
    [0x08000000#32, 0x38000000#32, 0x60000000#32, 0x90000000#32, 0x98000000#32, 0xa0000000#32, 0xc8000000#32,
      0xd7ffffff#32].map (fun w => field w 27 5) =
      [0b00001#5, 0b00111#5, 0b01100#5, 0b10010#5, 0b10011#5, 0b10100#5, 0b11001#5, 0b11010#5] := by
  decide

theorem witness_UnassignedWordsRejected_selectors :
    (field 0x10010000#32 27 5 = 0b00010#5 ∧ field 0x10010000#32 16 2 = 0b01#2) ∧
    (field 0x7c000000#32 27 5 = 0b01111#5 ∧ field 0x7c000000#32 24 2 = 0b00#2) ∧
    (field 0x82000000#32 27 5 = 0b10000#5 ∧ field 0x82000000#32 25 2 = 0b01#2) ∧
    (field 0xfc000000#32 27 5 = 0b11111#5 ∧ field 0xfc000000#32 24 3 = 0b100#3) := by
  decide

theorem witness_UnassignedWordsRejected_modes :
    (field 0xbf300000#32 27 5 = 0b10111#5 ∧ field 0xbf300000#32 20 2 = 0b11#2) ∧
    (field 0x58700000#32 27 5 = 0b01011#5 ∧ field 0x58700000#32 20 2 = 0b11#2) ∧
    (field 0x40300000#32 27 5 = 0b01000#5 ∧ field 0x40300000#32 26 1 = 0b0#1 ∧ field 0x40300000#32 20 2 = 0b11#2) ∧
    (field 0xf6000000#32 27 5 = 0b11110#5 ∧ field 0xf6000000#32 25 2 = 0b11#2) := by
  decide

/-- Each flag alone takes its jump. -/
theorem witness_ConditionalJumps_taken :
    (State.reset.setMs 0x00010004#32).ms.getLsbD 2 = true ∧ (State.reset.setMs 0x00010002#32).ms.getLsbD 1 = true ∧
    State.reset.ms.getLsbD 0 = true ∧ (true && true && false) = false := by
  decide

/-- A jump on n and p with only ZF set is not taken. -/
theorem witness_ConditionalJumps_notTaken :
    ¬ ((true = true ∧ State.reset.ms.getLsbD 2 = true) ∨ (true = true ∧ State.reset.ms.getLsbD 1 = true) ∨
      (false = true ∧ State.reset.ms.getLsbD 0 = true)) := by
  decide

/-- A state with registers whose sum wraps past the top of the address space. -/
def wrapping : State := boot [(1, 0x000ffffc), (2, 0x00000008)] [] 0

/-- Targets of either kind, at the top of the address space and past a wrapped sum. -/
theorem witness_jump_targets :
    (0xffffc#20).toNat % 4 = 0 ∧ (0xfffff#20).toNat % 4 ≠ 0 ∧
      (low20 (wrapping.reg 1 + wrapping.reg 2)).toNat % 4 = 0 ∧
      (low20 (wrapping.reg 1 + (wrapping.setReg 2 3#32).reg 2)).toNat % 4 ≠ 0 := by
  decide

/-- The lowest word a user-mode push may write is the one at 0x08000. -/
theorem witness_mayPush_user : mayPush (userAt 0x00008004#32) := ⟨by decide, .inr (by decide)⟩

/-- In supervisor mode a push wraps below address 0. -/
theorem witness_mayPush_supervisor : mayPush (kernelAt 0#32 []) := ⟨by decide, .inl (by decide)⟩

theorem witness_pushRaises_alignment : (low20 (pushedSp (userAt 0x00008003#32))).toNat % 4 ≠ 0 := by decide

theorem witness_pushRaises_protection :
    (low20 (pushedSp (userAt 0x00008000#32))).toNat % 4 = 0 ∧
      ¬ accessible (userAt 0x00008000#32) (low20 (pushedSp (userAt 0x00008000#32))) := by
  unfold accessible
  decide

/-- A call that may push, to a target of either kind. -/
theorem witness_SubroutineCalls :
    mayPush (userAt 0x00008004#32) ∧ (0x00300#20).toNat % 4 = 0 ∧ (0x00302#20).toNat % 4 ≠ 0 :=
  ⟨witness_mayPush_user, by decide, by decide⟩

/-- A supervisor-mode state with the given entry for SCL 63, the last of the table. -/
def lastEntry (entry : Word) : State := kernelAt 0#32 [(0x001fc, entry)]

/-- The address of the entry for SCL 63, as the statement writes it. -/
def lastEntryAt : Addr := BitVec.ofNat 20 (0x00100 + 4 * (63#6).toNat)

theorem witness_SystemCallEntry_disabled :
    (wordAt (lastEntry 0x7fffffff#32) (BitVec.ofNat 20 (0x00100 + 4 * (63#6).toNat))).getLsbD 31 = false := by
  decide

/-- Enabled, with its handler aligned and the supervisor stack aligned. -/
theorem witness_SystemCallEntry_enters :
    (wordAt (lastEntry 0xfff00404#32) lastEntryAt).getLsbD 31 = true ∧
      (low20 (wordAt (lastEntry 0xfff00404#32) lastEntryAt)).toNat % 4 = 0 ∧
      (low20 (zext (lastEntry 0xfff00404#32).ssp)).toNat % 4 = 0 := by
  decide

/-- Enabled, with its handler not aligned, and with the supervisor stack not aligned. -/
theorem witness_SystemCallEntry_errors :
    (wordAt (lastEntry 0x80000402#32) lastEntryAt).getLsbD 31 = true ∧
      (low20 (wordAt (lastEntry 0x80000402#32) lastEntryAt)).toNat % 4 ≠ 0 ∧
      (low20 (zext (lastEntry 0x80000402#32).ssp)).toNat % 4 = 0 ∧
      (wordAt ((lastEntry 0x80000402#32).setSsp 0x07002#20) lastEntryAt).getLsbD 31 = true ∧
      (low20 (zext ((lastEntry 0x80000402#32).setSsp 0x07002#20).ssp)).toNat % 4 ≠ 0 := by
  decide

/-- A pop of a word may read at 0x08000 in user mode, and not at 0x07ffc; 0x08002 is not aligned. -/
theorem witness_pops_and_returns :
    ((low20 ((userAt 0x00008000#32).reg 15)).toNat % 4 = 0 ∧
      accessible (userAt 0x00008000#32) (low20 ((userAt 0x00008000#32).reg 15))) ∧
    ((low20 ((userAt 0x00007ffc#32).reg 15)).toNat % 4 = 0 ∧
      ¬ accessible (userAt 0x00007ffc#32) (low20 ((userAt 0x00007ffc#32).reg 15))) ∧
    (low20 ((userAt 0x00008002#32).reg 15)).toNat % 4 ≠ 0 := by
  unfold accessible
  decide

/-- A pop of a short at 0x08002, at 0x07ffe and at 0x08001; a pop of a byte at 0x08001 and at 0x07fff. -/
theorem witness_Pops_narrow :
    ((low20 ((userAt 0x00008002#32).reg 15)).toNat % 2 = 0 ∧
      accessible (userAt 0x00008002#32) (low20 ((userAt 0x00008002#32).reg 15))) ∧
    ((low20 ((userAt 0x00007ffe#32).reg 15)).toNat % 2 = 0 ∧
      ¬ accessible (userAt 0x00007ffe#32) (low20 ((userAt 0x00007ffe#32).reg 15))) ∧
    (low20 ((userAt 0x00008001#32).reg 15)).toNat % 2 ≠ 0 ∧
    accessible (userAt 0x00008001#32) (low20 ((userAt 0x00008001#32).reg 15)) ∧
    ¬ accessible (userAt 0x00007fff#32) (low20 ((userAt 0x00007fff#32).reg 15)) ∧ (15#5 : Reg) = 15#5 ∧
    (14#5 : Reg) ≠ 15#5 := by
  unfold accessible
  decide

/-- RET where the popped address is aligned and where it is not. -/
theorem witness_SubroutineReturn :
    (low20 (wordAt (kernelAt 0x00006ffc#32 [(0x06ffc, 0xfff00210)]) 0x06ffc#20)).toNat % 4 = 0 ∧
    (low20 (wordAt (kernelAt 0x00006ffc#32 [(0x06ffc, 0x00000211)]) 0x06ffc#20)).toNat % 4 ≠ 0 := by
  decide

/-- RETI in user mode; with a stack that is not aligned; with a return address that is not aligned; and whole. -/
theorem witness_HandlerReturn :
    (userAt 0#32).ms.getLsbD 16 = false ∧ (kernelAt 0x00006ff5#32 []).ms.getLsbD 16 = true ∧
    (low20 ((kernelAt 0x00006ff5#32 []).reg 15)).toNat % 4 ≠ 0 ∧
    (low20 ((kernelAt 0x00006ff4#32 [(0x06ff4, 0x8002)]).reg 15)).toNat % 4 = 0 ∧
    (low20 (wordAt (kernelAt 0x00006ff4#32 [(0x06ff4, 0x8002)]) 0x06ff4#20)).toNat % 4 ≠ 0 ∧
    (low20 (wordAt (kernelAt 0x00006ff4#32 [(0x06ff4, 0x8000)]) 0x06ff4#20)).toNat % 4 = 0 := by
  decide

/-- Each form of CALL from user mode, pushing at 0x08000: the last word of the address space; R15 itself, which is read
after the decrement; and R15 with another register. -/
theorem witness_CallThenReturn :
    callTarget (decremented (userAt 0x00008004#32)) (.callA 0xffffc) = some 0xffffc#20 ∧
      callTarget (decremented (userAt 0x00008004#32)) (.callR 15) = some 0x08000#20 ∧
      callTarget (decremented (userAt 0x00008004#32)) (.callX 15 1) = some 0x08000#20 ∧
      (userAt 0x00008004#32).mem.wf = true ∧ (userAt 0x00008004#32).pc.toNat % 4 = 0 ∧ (0xffffc#20).toNat % 4 = 0 ∧
      (0x08000#20).toNat % 4 = 0 ∧ mayPush (userAt 0x00008004#32) :=
  ⟨by decide, by decide, by decide, by decide, by decide, by decide, by decide, witness_mayPush_user⟩

/-- The user-mode machine of vector C32, about to run SCL 0. -/
def callingUser : State :=
  (start 0x00000002#32 0x08000#20 [(15, 0x0000f000)] [(0x00100, 0x80000400)] 0x44000000#32).setSsp 0x07000#20

theorem witness_SystemCallThenReturn :
    callingUser.mem.wf = true ∧ callingUser.ms.getLsbD 16 = false ∧ callingUser.pc.toNat % 4 = 0 ∧
      callingUser.ssp.toNat % 4 = 0 ∧
      (wordAt callingUser (BitVec.ofNat 20 (0x00100 + 4 * (0#6).toNat))).getLsbD 31 = true ∧
      (low20 (wordAt callingUser (BitVec.ofNat 20 (0x00100 + 4 * (0#6).toNat)))).toNat % 4 = 0 ∧
      ∃ t, exec (.scl 0) callingUser = .next t :=
  ⟨by decide, by decide, by decide, by decide, by decide, by decide, ⟨_, rfl⟩⟩

theorem running_userPending (entry : Word) : (userPending entry).Running := ⟨rfl, rfl⟩

theorem witness_InterruptThenReturn_user :
    (userPending 0x80000500#32).Running ∧ (userPending 0x80000500#32).arrivals = [] ∧
      (userPending 0x80000500#32).pending = [8] ∧ (userPending 0x80000500#32).mem.wf = true ∧
      (userPending 0x80000500#32).pc.toNat % 4 = 0 ∧ (userPending 0x80000500#32).ms.getLsbD 16 = false ∧
      (userPending 0x80000500#32).ssp.toNat % 4 = 0 ∧
      (wordAt (userPending 0x80000500#32) (BitVec.ofNat 20 (4 * (8 : Vect).val))).getLsbD 31 = true ∧
      (low20 (wordAt (userPending 0x80000500#32) (BitVec.ofNat 20 (4 * (8 : Vect).val)))).toNat % 4 = 0 ∧
      ∃ t, step (userPending 0x80000500#32) = .next t :=
  ⟨running_userPending _, by decide, by decide, by decide, by decide, by decide, by decide, by decide, by decide,
    ⟨_, rfl⟩⟩

theorem witness_InterruptThenReturn_supervisor :
    supervisorPending.Running ∧ supervisorPending.arrivals = [] ∧ supervisorPending.pending = [8] ∧
      supervisorPending.mem.wf = true ∧ supervisorPending.pc.toNat % 4 = 0 ∧ supervisorPending.ms.getLsbD 16 = true ∧
      (low20 (supervisorPending.reg 15#5)).toNat % 4 = 0 ∧
      (wordAt supervisorPending (BitVec.ofNat 20 (4 * (8 : Vect).val))).getLsbD 31 = true ∧
      (low20 (wordAt supervisorPending (BitVec.ofNat 20 (4 * (8 : Vect).val)))).toNat % 4 = 0 ∧
      ∃ t, step supervisorPending = .next t :=
  ⟨⟨rfl, rfl⟩, by decide, by decide, by decide, by decide, by decide, by decide, by decide, by decide, ⟨_, rfl⟩⟩

/-- Loads and stores of each width: allowed at the first unprotected address, refused just below it, not aligned just
above it. A byte is never misaligned. -/
theorem witness_accesses :
    (accessible (userAt 0#32) 0x08000#20 ∧ (0x08000#20).toNat % 1 = 0 ∧ (0x08000#20).toNat % 2 = 0 ∧
      (0x08000#20).toNat % 4 = 0) ∧
    (¬ accessible (userAt 0#32) 0x07fff#20 ∧ (0x07fff#20).toNat % 1 = 0) ∧
    (¬ accessible (userAt 0#32) 0x07ffe#20 ∧ (0x07ffe#20).toNat % 2 = 0) ∧
    (¬ accessible (userAt 0#32) 0x07ffc#20 ∧ (0x07ffc#20).toNat % 4 = 0) ∧
    (accessible (kernelAt 0#32 []) 0x00000#20 ∧ (0x08001#20).toNat % 2 ≠ 0 ∧ (0x08002#20).toNat % 4 ≠ 0) := by
  unfold accessible
  decide

/-- The stored bytes read back from a memory in canonical form. -/
theorem witness_stores : (userAt 0#32).mem.wf = true := by decide

theorem witness_PushThenPop :
    (userAt 0x00008004#32).mem.wf = true ∧ mayPush (userAt 0x00008004#32) ∧ (1#5 : Reg) ≠ 15#5 ∧
      ∃ t, exec (.pushw 15) (userAt 0x00008004#32) = .next t :=
  ⟨by decide, witness_mayPush_user, by decide, ⟨_, rfl⟩⟩

theorem witness_CopiesLeaveFlags :
    (Instr.cpy 1 2 = .cpy 1 2 ∧ (0#32 : Word) = State.reset.reg 2) ∧
      (Instr.cpyi 1 0x8000#16 = .cpyi 1 0x8000#16 ∧ (0xffff8000#32 : Word) = BitVec.ofInt 32 (0x8000#16).toInt) ∧
      (Instr.cpyu 1 0x8000#16 = .cpyu 1 0x8000#16 ∧ (0x00008000#32 : Word) = BitVec.ofNat 32 (0x8000#16).toNat) := by
  decide

theorem witness_PrivilegedInUserMode :
    (isPrivileged .halt = true ∧ (userAt 0#32).ms.getLsbD 16 = false) ∧
      ((userAt 0#32).fault = none ∧ isPrivileged .ret = false ∧ ∃ t, exec .ret (userAt 0#32) = .next t) ∧
      ((kernelAt 0#32 []).fault = none ∧ (kernelAt 0#32 []).ms.getLsbD 16 = true ∧
        ∃ t, exec .halt (kernelAt 0#32 []) = .next t) :=
  ⟨by decide, ⟨by decide, by decide, ⟨_, rfl⟩⟩, ⟨by decide, by decide, ⟨_, rfl⟩⟩⟩

/-- Supervisor mode, and each port named by an immediate or by the low byte of a register. -/
theorem witness_port_reads :
    (boot [(2, 0xffffff09)] [] 0).ms.getLsbD 16 = true ∧
      readsPort (.inI 1 4) 1 4 State.reset ∧ readsPort (.inI 1 5) 1 5 State.reset ∧
      readsPort (.inI 1 8) 1 8 State.reset ∧ readsPort (.inR 1 2) 1 9 (boot [(2, 0xffffff09)] [] 0) ∧
      readsPort (.inI 1 12) 1 12 State.reset ∧ (12#8 : Port) ∉ [4#8, 5#8, 8#8, 9#8] :=
  ⟨by decide, .inl rfl, .inl rfl, .inl rfl, .inr ⟨2, rfl, by decide⟩, .inl rfl, by decide⟩

/-- The input queue empty, holding bytes, and at its bound. -/
theorem witness_ReadByteInput :
    State.reset.inQueue = [] ∧ (State.reset.setInQueue [0x68, 0x69]).inQueue = 0x68#8 :: [0x69#8] ∧
      (State.reset.setInQueue (List.replicate 65535 0x41#8)).inQueue.length ≤ 65535 :=
  ⟨rfl, rfl, by rw [State.setInQueue_inQueue, List.length_replicate]⟩

theorem witness_WritePorts :
    (boot [(2, 0xabcdef0c)] [] 0).ms.getLsbD 16 = true ∧ writesPort (.outI 12 1) 1 12 State.reset ∧
      writesPort (.outI 4 1) 1 4 State.reset ∧ writesPort (.outR 2 1) 1 12 (boot [(2, 0xabcdef0c)] [] 0) :=
  ⟨by decide, .inl rfl, .inl rfl, .inr ⟨2, rfl, by decide⟩⟩

theorem witness_SetSupervisorStack :
    (userAt 0#32).ms.getLsbD 16 = false ∧ State.reset.ms.getLsbD 16 = true ∧ (0x07002#20).toNat % 4 ≠ 0 ∧
      (0xffffc#20).toNat % 4 = 0 ∧ (Instr.ssspA 0xffffc#20 = .ssspA 0xffffc#20 ∧ (0xffffc#20 : Addr) = 0xffffc#20) ∧
      (Instr.ssspR 3 = .ssspR 3 ∧ (0#20 : Addr) = low20 (State.reset.reg 3)) := by
  decide

theorem witness_HaltStopsTheMachine :
    State.reset.ms.getLsbD 16 = true ∧ State.reset.fault = none ∧ (userAt 0#32).ms.getLsbD 16 = false := by
  decide

/-- A machine at reset with a word to run meets the invariant and takes a step. -/
theorem inv_boot : (boot [] [] 0).Inv where
  memory := by decide
  pc := by decide
  ssp := by decide
  pending := by decide
  queue := by decide

theorem witness_EveryStepKeepsInv : (boot [] [] 0).Inv ∧ ∃ t, step (boot [] [] 0) = .next t := ⟨inv_boot, ⟨_, rfl⟩⟩

theorem witness_RunningMachineSteps :
    (boot [] [] 0).Running ∧ (State.reset.withFault .privilegeViolation).fault = some .privilegeViolation ∧
      (State.reset.halt.fault = none ∧ State.reset.halt.halted = true) ∧ State.reset.arrivals = [] ∧
      (¬ (State.reset.halt.setArrivals [[0x41]]).Running ∧ (State.reset.halt.setArrivals [[0x41]]).arrivals ≠ []) :=
  ⟨⟨rfl, rfl⟩, rfl, ⟨rfl, rfl⟩, rfl, fun h => absurd h.2 (by decide), by decide⟩

/-- A user-mode machine at the first unprotected address, about to run the all-zero word. -/
theorem witness_StepRunsDecodedInstruction :
    (userAt 0#32).Running ∧ (environment (userAt 0#32)).pending = [] ∧ (userAt 0#32).pc.toNat % 4 = 0 ∧
      accessible (userAt 0#32) (userAt 0#32).pc ∧
      decode [(userAt 0#32).mem.readByte (userAt 0#32).pc, (userAt 0#32).mem.readByte ((userAt 0#32).pc + 1#20),
        (userAt 0#32).mem.readByte ((userAt 0#32).pc + 2#20), (userAt 0#32).mem.readByte ((userAt 0#32).pc + 3#20)] =
        .ok (.subR 0 0 0, []) :=
  ⟨⟨rfl, rfl⟩, by decide, by decide, .inr (by decide), by decide⟩

theorem witness_FetchErrors_protection :
    ((userAt 0#32).setPc 0x07ffc#20).Running ∧ (environment ((userAt 0#32).setPc 0x07ffc#20)).pending = [] ∧
      ((userAt 0#32).setPc 0x07ffc#20).pc.toNat % 4 = 0 ∧
      ¬ accessible ((userAt 0#32).setPc 0x07ffc#20) ((userAt 0#32).setPc 0x07ffc#20).pc :=
  ⟨⟨rfl, rfl⟩, by decide, by decide, by unfold accessible; decide⟩

theorem witness_FetchErrors_illegal :
    (boot [] [] 0x88000001).Running ∧ (environment (boot [] [] 0x88000001)).pending = [] ∧
      (boot [] [] 0x88000001).pc.toNat % 4 = 0 ∧ accessible (boot [] [] 0x88000001) (boot [] [] 0x88000001).pc ∧
      decodeWord (wordAt (boot [] [] 0x88000001) (boot [] [] 0x88000001).pc) = .error .reservedNotZero :=
  ⟨⟨rfl, rfl⟩, by decide, by decide, .inl (by decide), by decide⟩

/-- No entry; bytes that fit exactly; the empty entry; bytes that do not fit. -/
theorem witness_ArrivalsAtTheBoundary :
    State.reset.arrivals = [] ∧ ([0x41#8, 0x42#8] ≠ ([] : List Byte)) ∧
      (State.reset.setInQueue (List.replicate 65533 0#8)).inQueue.length + [0x41#8, 0x42#8].length ≤ 65535 ∧
      65535 < (State.reset.setInQueue (List.replicate 65534 0#8)).inQueue.length + [0x41#8, 0x42#8].length ∧
      (State.reset.setArrivals [[], [0x41#8]]).arrivals = [] :: [[0x41#8]] :=
  ⟨rfl, by decide, by rw [State.setInQueue_inQueue, List.length_replicate]; decide,
    by rw [State.setInQueue_inQueue, List.length_replicate]; decide, rfl⟩

/-- A user-mode service with the entry enabled: handler and supervisor stack aligned, and each of them not. -/
theorem witness_InterruptFromUserMode :
    (userPending 0x80000500#32).Running ∧ (environment (userPending 0x80000500#32)).pending = [8] ∧
      (userPending 0x80000500#32).ms.getLsbD 16 = false ∧
      (wordAt (userPending 0x80000500#32) (BitVec.ofNat 20 (4 * (8 : Vect).val))).getLsbD 31 = true ∧
      (low20 (zext (userPending 0x80000500#32).ssp)).toNat % 4 = 0 ∧ (0x00500#20).toNat % 4 = 0 ∧
      (wordAt (userPending 0x80000502#32) (BitVec.ofNat 20 (4 * (8 : Vect).val))).getLsbD 31 = true ∧
      (0x00502#20).toNat % 4 ≠ 0 ∧ (low20 (zext ((userPending 0x80000500#32).setSsp 1#20).ssp)).toNat % 4 ≠ 0 :=
  ⟨running_userPending _, by decide, by decide, by decide, by decide, by decide, by decide, by decide, by decide⟩

theorem witness_InterruptFromSupervisorMode :
    supervisorPending.Running ∧ (environment supervisorPending).pending = [8] ∧
      supervisorPending.ms.getLsbD 16 = true ∧
      (wordAt supervisorPending (BitVec.ofNat 20 (4 * (8 : Vect).val))).getLsbD 31 = true ∧
      (low20 (supervisorPending.reg 15)).toNat % 4 = 0 ∧
      (low20 ((supervisorPending.setReg 15 3#32).reg 15)).toNat % 4 ≠ 0 :=
  ⟨⟨rfl, rfl⟩, by decide, by decide, by decide, by decide, by decide⟩

/-- The last vector's entry is as memory is at reset: disabled. -/
theorem witness_DisabledInterruptIsLost :
    (State.reset.setPending [63]).Running ∧ (environment (State.reset.setPending [63])).pending = [63] ∧
      (wordAt (State.reset.setPending [63]) (BitVec.ofNat 20 (4 * (63 : Vect).val))).getLsbD 31 = false :=
  ⟨⟨rfl, rfl⟩, by decide, by decide⟩

/-- Two vectors at once, their entries disabled. -/
theorem witness_PendingIsServedOneByOne :
    (State.reset.setPending [3, 8]).Running ∧ (environment (State.reset.setPending [3, 8])).pending ≠ [] ∧
      ∀ v ∈ (environment (State.reset.setPending [3, 8])).pending,
        (wordAt (State.reset.setPending [3, 8]) (BitVec.ofNat 20 (4 * v.val))).getLsbD 31 = false :=
  ⟨⟨rfl, rfl⟩, by decide, by decide⟩

/-- The first and the last vector at once, their entries enabled, with the given `ms`. -/
def bothPending (ms : Word) : State :=
  ((start ms 0x08008#20 [(15, 0x0000f000)] [(0x00000, 0x80000500), (0x000fc, 0x80000602)] 0#32).setSsp
    0x07000#20).setPending [0, 63]

/-- From either mode: both entries enabled, one handler word-aligned and one not, both stacks word-aligned. -/
theorem witness_PendingIsServedOneByOne_enabled :
    (bothPending 0x00000002#32).Running ∧ (environment (bothPending 0x00000002#32)).pending ≠ [] ∧
      (bothPending 0x00000002#32).ms.getLsbD 16 = false ∧ (bothPending 0x00010002#32).ms.getLsbD 16 = true ∧
      (∀ v ∈ (environment (bothPending 0x00000002#32)).pending,
        (wordAt (bothPending 0x00000002#32) (BitVec.ofNat 20 (4 * v.val))).getLsbD 31 = true) ∧
      (low20 (zext (bothPending 0x00000002#32).ssp)).toNat % 4 = 0 ∧
      (low20 ((bothPending 0x00010002#32).reg 15)).toNat % 4 = 0 :=
  ⟨⟨rfl, rfl⟩, by decide, by decide, by decide, by decide, by decide, by decide⟩

/-- The supervisor-mode machine of vector C28, about to run RETI into user mode. -/
def returning : State :=
  boot [(15, 0x00006ff4)] [(0x06ff4, 0x00008000), (0x06ff8, 0x00000002), (0x06ffc, 0x0000f000)] 0x1c000000

theorem witness_LeavingSupervisorMode :
    (∃ t, step returning = .next t ∧ t.ms.getLsbD 16 = false) ∧ returning.ms.getLsbD 16 = true ∧
      ∃ t, exec .reti returning = .next t ∧ t.fault = none :=
  ⟨⟨_, rfl, by decide⟩, by decide, ⟨_, rfl, by decide⟩⟩

/-- SCL from user mode, and an interrupt from either mode with every entry enabled, raise no error. -/
theorem witness_EnteringSupervisorMode_sets :
    (∃ t, exec (.scl 0) callingUser = .next t ∧ t.fault = none) ∧ callingUser.mem.wf = true ∧
      ((userPending 0x80000500#32).Running ∧ (∃ t, step (userPending 0x80000500#32) = .next t ∧ t.fault = none) ∧
        (environment (userPending 0x80000500#32)).pending ≠ [] ∧
        ∀ v ∈ (environment (userPending 0x80000500#32)).pending,
          (wordAt (userPending 0x80000500#32) (BitVec.ofNat 20 (4 * v.val))).getLsbD 31 = true) ∧
      (supervisorPending.Running ∧ (∃ t, step supervisorPending = .next t ∧ t.fault = none) ∧
        (environment supervisorPending).pending ≠ [] ∧
        ∀ v ∈ (environment supervisorPending).pending,
          (wordAt supervisorPending (BitVec.ofNat 20 (4 * v.val))).getLsbD 31 = true) ∧
      supervisorPending.mem.wf = true :=
  ⟨⟨_, rfl, by decide⟩, by decide, ⟨running_userPending _, ⟨_, rfl, by decide⟩, by decide, by decide⟩,
    ⟨⟨rfl, rfl⟩, ⟨_, rfl, by decide⟩, by decide, by decide⟩, by decide⟩

theorem witness_EnteringSupervisorMode :
    (∃ t, step (userPending 0x80000500#32) = .next t ∧ t.ms.getLsbD 16 = true) ∧
      (userPending 0x80000500#32).ms.getLsbD 16 = false ∧ (userPending 0x80000500#32).mem.wf = true ∧
      (∃ t, step callingUser = .next t ∧ t.ms.getLsbD 16 = true) ∧
      ((∃ t, step supervisorPending = .next t) ∧ (environment supervisorPending).pending ≠ [] ∧
        supervisorPending.ms.getLsbD 16 = true) ∧
      ∃ t, exec (.scl 0) (kernelAt 0#32 []) = .next t :=
  ⟨⟨_, rfl, by decide⟩, by decide, by decide, ⟨_, rfl, by decide⟩, ⟨⟨_, rfl⟩, by decide, by decide⟩, ⟨_, rfl⟩⟩

theorem witness_OnlySsspWritesSsp :
    ∃ t, step (boot [] [] 0x30007000) = .next t ∧ t.ssp ≠ (boot [] [] 0x30007000).ssp :=
  ⟨_, rfl, by decide⟩

theorem witness_FlagsLeftAlone :
    (∃ t, exec (.stwA 0x08000 1) State.reset = .next t) ∧ leavesFlags (.stwA 0x08000 1) = true ∧
      (∃ t, exec (.addR 1 2 3) State.reset = .next t) ∧ (Instr.addR 1 2 3) ≠ .reti :=
  ⟨⟨_, rfl⟩, by decide, ⟨_, rfl⟩, by decide⟩

/-- HALT changes the halted state; a machine stays without a fault. -/
theorem witness_InstructionsLeavePending :
    ∃ t, exec .halt State.reset = .next t ∧ t.halted ≠ State.reset.halted ∧ t.fault = none :=
  ⟨_, rfl, by decide, by decide⟩

/-- OUT changes the output, IN of port 9 the queue, IN of any port the count of draws. -/
theorem witness_DevicesOnlyThroughPorts :
    (∃ t, exec (.outI 12 1) State.reset = .next t ∧ t.output ≠ State.reset.output) ∧
      (∃ t, exec (.inI 1 9) (State.reset.setInQueue [0x68]) = .next t ∧
        t.inQueue ≠ (State.reset.setInQueue [0x68]).inQueue) ∧
      ∃ t, exec (.inI 1 0) State.reset = .next t ∧ t.draws ≠ State.reset.draws :=
  ⟨⟨_, rfl, by decide⟩, ⟨_, rfl, by decide⟩, ⟨_, rfl, by decide⟩⟩

/-- A user-mode machine about to load the word at 0x00100. -/
def snooping : State := start 0x00000002#32 0x08000#20 [] [] 0x58400100#32

theorem snooping_noScl : ∀ n, ¬ isWord (wordAt snooping snooping.pc) (.scl n) := by
  intro n h
  have hd : decodeWord (wordAt snooping snooping.pc) = .ok (.ldwA 1 0x00100#20) := by decide
  rw [isWord, hd] at h
  cases h

theorem witness_UserModeCannotWrite :
    (∃ t, step snooping = .next t) ∧ snooping.ms.getLsbD 16 = false ∧ (environment snooping).pending = [] ∧
      ∀ n, ¬ isWord (wordAt snooping snooping.pc) (.scl n) :=
  ⟨⟨_, rfl⟩, by decide, by decide, snooping_noScl⟩

/-- The same machine with another secret in the protected space. -/
def snooping' : State := snooping.setMem (snooping.mem.writeByte 0x00100#20 0x55#8)

theorem witness_UserModeCannotRead :
    snooping.Running ∧ agreeOutsideProtected snooping snooping' ∧ snooping.ms.getLsbD 16 = false ∧
      (environment snooping).pending = [] ∧ (∀ n, ¬ isWord (wordAt snooping snooping.pc) (.scl n)) ∧
      snooping.mem.readByte 0x00100#20 ≠ snooping'.mem.readByte 0x00100#20 := by
  refine ⟨⟨rfl, rfl⟩, ⟨fun _ => rfl, rfl, rfl, rfl, rfl, rfl, rfl, rfl, rfl, rfl, rfl, rfl, fun a ha => ?_⟩, by decide,
    by decide, snooping_noScl, by decide⟩
  have h : a ≠ 0x00100#20 := fun h => absurd (h ▸ ha) (by decide)
  exact (Memory.readByte_writeByte_ne snooping.mem 0x55#8 h).symm

theorem witness_MemoryLayout :
    State.reset.mem.wf = true ∧ (0xffffc#20).toNat % 4 = 0 ∧ (0xffffe#20).toNat % 2 = 0 ∧
      ¬ isWithin 0xffffc#20 4 0x00000#20 ∧ ¬ isWithin 0xffffe#20 2 0xffffd#20 := by
  refine ⟨rfl, by decide, by decide, ?_, ?_⟩ <;> rintro ⟨k, hk, h⟩ <;>
    have := congrArg BitVec.toNat h <;> simp [BitVec.toNat_add] at this <;> omega

theorem witness_StoreIsSeenByTheNextFetch :
    (boot [(1, 0x88000000)] [] 0).Running ∧ (boot [(1, 0x88000000)] [] 0).mem.wf = true ∧
      (boot [(1, 0x88000000)] [] 0).arrivals = [] ∧ (boot [(1, 0x88000000)] [] 0).pending = [] ∧
      (boot [(1, 0x88000000)] [] 0).pc.toNat % 4 = 0 ∧
      accessible (boot [(1, 0x88000000)] [] 0) (boot [(1, 0x88000000)] [] 0).pc ∧
      isWord ((boot [(1, 0x88000000)] [] 0).reg 1) .halt ∧
      ∃ t, exec (.stwA (boot [(1, 0x88000000)] [] 0).pc 1) (boot [(1, 0x88000000)] [] 0) = .next t :=
  ⟨⟨rfl, rfl⟩, by decide, by decide, by decide, by decide, .inl (by decide), by unfold isWord; decide, ⟨_, rfl⟩⟩

/-- The last word of the address space, never written, is loaded; then an instruction that stores nothing. -/
theorem witness_UnwrittenMemoryKeepsItsValue :
    (0xffffc#20).toNat % 4 = 0 ∧ accessible (userAt 0#32) 0xffffc#20 ∧
      (userAt 0#32).mem.lookup 0xffffc = none ∧
      ∃ t, exec (.ldwA 1 0xffffc) (userAt 0#32) = .next t ∧ storesNothing (.addR 1 2 3) = true ∧
        ∃ u, exec (.addR 1 2 3) t = .next u ∧ accessible u 0xffffc#20 ∧
          ∀ c, isWithin 0xffffc#20 4 c → u.mem.readByte c = t.mem.readByte c :=
  ⟨by decide, .inr (by decide), by decide, _, rfl, by decide, _, rfl, .inr (by decide), fun _ _ => rfl⟩

/-- The word at 0x08000 is loaded; then STW to the next word. -/
theorem witness_UnwrittenMemoryKeepsItsValue_store :
    (0x08000#20).toNat % 4 = 0 ∧ accessible (userAt 0#32) 0x08000#20 ∧ (0x08004#20 : Addr) ≠ 0x08000#20 ∧
      ∃ t u, exec (.ldwA 1 0x08000) (userAt 0#32) = .next t ∧ exec (.stwA 0x08004 15) t = .next u :=
  ⟨by decide, .inr (by decide), by decide, _, _, rfl, rfl⟩

end Sys2Proof.Tests
end

section
/-! Everything an instruction can do to the state, said once. An instruction changes the state by a sequence of single
updates, and which updates it may make is read off its constructor (`Update`). Every rule of 10_state.md about what is
left as it was is then a property of the single updates. -/

namespace Sys2Proof.Machine
open Relation

/-- The instruction is IN, in either form. -/
def IsIn (i : Instr) : Prop := (∃ a b, i = .inR a b) ∨ ∃ a p, i = .inI a p

/-- The instruction is OUT, in either form. -/
def IsOut (i : Instr) : Prop := (∃ a b, i = .outR a b) ∨ ∃ p b, i = .outI p b

/-- The instruction is SSSP, in either form. -/
def IsSssp (i : Instr) : Prop := (∃ a, i = .ssspA a) ∨ ∃ r, i = .ssspR r

/-- The instruction is SCL. -/
def IsScl (i : Instr) : Prop := ∃ n, i = .scl n

/-- One update of the state that the instruction may make. Registers, `pc` and the record of an error are open to every
instruction, and so is a store that has passed its checks; everything else belongs to the instructions named. -/
inductive Update (i : Instr) : State → State → Prop where
  | reg {s : State} (r : Reg) (v : Word) : Update i s (s.setReg r v)
  | pc {s : State} (a : Addr) : Update i s (s.setPc a)
  | fault {s : State} (e : MachineError) : Update i s (s.withFault e)
  | flags {s : State} {n : Nat} (x : BitVec n) (hi : leavesFlags i = false) : Update i s (s.setFlags x)
  | byte {s : State} {a : Addr} (v : Byte) (ha : s.mayAccess a = true) : Update i s (s.setMem (s.mem.writeByte a v))
  | short {s : State} {a : Addr} (v : Short) (hn : aligned a 2 = true) (ha : s.mayAccess a = true) :
      Update i s (s.setMem (s.mem.writeShort a v))
  | word {s : State} {a : Addr} (v : Word) (hn : aligned a 4 = true) (ha : s.mayAccess a = true) :
      Update i s (s.setMem (s.mem.writeWord a v))
  | frame {s : State} (a : Addr) (v : Word) (hi : IsScl i) : Update i s (s.setMem (s.mem.writeWord a v))
  | mode {s : State} (hi : IsScl i) : Update i s (s.setMs (withSupervisor s.ms))
  | image {s : State} (v : Word) (hi : i = .reti) : Update i s (s.setMs v)
  | ssp {s : State} (a : Addr) (hi : IsSssp i) : Update i s (s.setSsp a)
  | halt {s : State} (hi : i = .halt) : Update i s s.halt
  | emit {s : State} (b : Byte) (hi : IsOut i) : Update i s (s.emit b)
  | input {s : State} (q : List Byte) (c : Clock) (d : Nat) (hi : IsIn i) :
      Update i s { s with inQueue := q, clock := c, draws := d }

/-- A sequence of updates that the instruction may make. -/
abbrev Updates (i : Instr) : State → State → Prop := ReflTransGen (Update i)

/-- What every single update leaves as it was, a sequence of them does. -/
theorem Updates.preserves {α : Type} {i : Instr} {f : State → α} (hf : ∀ s t, Update i s t → f t = f s) {s t : State}
    (h : Updates i s t) : f t = f s := by
  induction h with
  | refl => rfl
  | tail _ hu ih => exact (hf _ _ hu).trans ih

/-! ## Actions that make only updates of an instruction -/

/-- The state an action has reached, completed or not. -/
def reached {α : Type} : EStateM.Result MachineError State α → State
  | .ok _ t => t
  | .error _ t => t

/-- From every state the action makes only updates that the instruction may make, whether it completes or raises. -/
def Only {α : Type} (i : Instr) (x : Act α) : Prop := ∀ s, Updates i s (reached (x s))

section Actions

variable {i : Instr}

theorem Only.bind {α β : Type} {x : Act α} {f : α → Act β} (hx : Only i x) (hf : ∀ a, Only i (f a)) :
    Only i (x >>= f) := by
  intro s
  have hs := hx s
  rw [Act.bind_apply]
  cases h : x s with
  | ok a u =>
    rw [h] at hs
    exact hs.trans (hf a u)
  | error e u =>
    rw [h] at hs
    exact hs

theorem only_pure {α : Type} (a : α) : Only i (pure a) := fun _ => .refl

theorem only_look {α : Type} (f : State → α) : Only i (look f) := fun _ => .refl

theorem only_change {f : State → State} (h : ∀ s, Updates i s (f s)) : Only i (change f) := h

theorem only_require (ok : Bool) (e : MachineError) : Only i (require ok e) := by
  intro s
  rw [require_eq]
  cases ok <;> exact .refl

theorem only_ite {α : Type} {c : Prop} [Decidable c] {x y : Act α} (hx : c → Only i x) (hy : ¬ c → Only i y) :
    Only i (if c then x else y) := by
  split
  · exact hx ‹_›
  · exact hy ‹_›

theorem only_readReg (r : Reg) : Only i (readReg r) := only_look _

theorem only_writeReg (r : Reg) (v : Word) : Only i (writeReg r v) := only_change fun _ => .single (.reg r v)

theorem only_readPc : Only i readPc := only_look _

theorem only_writePc (a : Addr) : Only i (writePc a) := only_change fun _ => .single (.pc a)

theorem only_readMs : Only i readMs := only_look _

theorem only_readSsp : Only i readSsp := only_look _

theorem only_updateFlags {n : Nat} (x : BitVec n) (hi : leavesFlags i = false) : Only i (updateFlags x) :=
  only_change fun _ => .single (.flags x hi)

theorem only_growStack : Only i growStack := only_change fun _ => .single (.reg _ _)

theorem only_shrinkStack : Only i shrinkStack := only_change fun _ => .single (.reg _ _)

theorem only_checkAligned (a : Addr) (n : Nat) : Only i (checkAligned a n) := only_require _ _

theorem only_checkAccess (a : Addr) (n : Nat) : Only i (checkAccess a n) :=
  (only_checkAligned a n).bind fun _ => (only_look _).bind fun _ => only_require _ _

theorem only_memReadByte (a : Addr) : Only i (memReadByte a) := (only_checkAccess a 1).bind fun _ => only_look _

theorem only_memReadShort (a : Addr) : Only i (memReadShort a) := (only_checkAccess a 2).bind fun _ => only_look _

theorem only_memReadWord (a : Addr) : Only i (memReadWord a) := (only_checkAccess a 4).bind fun _ => only_look _

theorem only_memReadWordSys (a : Addr) : Only i (memReadWordSys a) := (only_checkAligned a 4).bind fun _ => only_look _

theorem only_memWriteByte (a : Addr) (v : Byte) : Only i (memWriteByte a v) := by
  intro s
  rw [memWriteByte_eq]
  split
  · exact .single (.byte v ‹_›)
  · exact .refl

theorem only_memWriteShort (a : Addr) (v : Short) : Only i (memWriteShort a v) := by
  intro s
  rw [memWriteShort_eq]
  split
  · split
    · exact .single (.short v ‹_› ‹_›)
    · exact .refl
  · exact .refl

theorem only_memWriteWord (a : Addr) (v : Word) : Only i (memWriteWord a v) := by
  intro s
  rw [memWriteWord_eq]
  split
  · split
    · exact .single (.word v ‹_› ‹_›)
    · exact .refl
  · exact .refl

theorem only_memWriteWordSys (a : Addr) (v : Word) (hi : IsScl i) : Only i (memWriteWordSys a v) :=
  (only_checkAligned a 4).bind fun _ => only_change fun _ => .single (.frame a v hi)

theorem only_push (v : Word) : Only i (push v) :=
  only_growStack.bind fun _ => (only_readReg _).bind fun _ => only_memWriteWord _ v

theorem only_pop : Only i pop :=
  (only_readReg _).bind fun _ => (only_memReadWord _).bind fun _ => only_shrinkStack.bind fun _ => only_pure _

theorem only_pushSys (v : Word) (hi : IsScl i) : Only i (pushSys v) :=
  only_growStack.bind fun _ => (only_readReg _).bind fun _ => only_memWriteWordSys _ v hi

theorem only_transferTo (a : Addr) : Only i (transferTo a) := (only_checkAligned a 4).bind fun _ => only_writePc a

theorem only_privCheck : Only i privCheck := only_readMs.bind fun _ => only_require _ _

theorem only_switchStack (hi : IsScl i) : Only i switchStack :=
  (only_readReg _).bind fun old => only_readSsp.bind fun _ => (only_writeReg _ _).bind fun _ => only_pushSys old hi

/-- Entering supervisor mode without the stack switch: `ms` and `pc` pushed, MI set, the handler's address taken. -/
theorem only_enterSupervisor_keep (entry : Word) (hi : IsScl i) : Only i (enterSupervisor false entry) :=
  only_readMs.bind fun image => (only_pushSys image hi).bind fun _ => only_readPc.bind fun back =>
    (only_pushSys (wordOf back) hi).bind fun _ => (only_change fun _ => .single (.mode hi)).bind fun _ =>
      only_transferTo _

theorem only_enterSupervisor (switch : Bool) (entry : Word) (hi : IsScl i) : Only i (enterSupervisor switch entry) := by
  cases switch with
  | false => exact only_enterSupervisor_keep entry hi
  | true =>
    rw [funext (enterSupervisor_switch entry)]
    exact (only_switchStack hi).bind fun _ => only_enterSupervisor_keep entry hi

/-- The service of an interrupt makes no update that SCL may not make: both enter supervisor mode by one operation
(60_exceptions.md R263). -/
theorem only_serviceInterrupt (v : Vect) (hi : IsScl i) : Only i (serviceInterrupt v) :=
  (only_memReadWordSys _).bind fun entry => only_readMs.bind fun _ =>
    only_ite (fun _ => only_enterSupervisor _ entry hi) fun _ => only_pure _

theorem only_restoreUserStack : Only i restoreUserStack :=
  only_readMs.bind fun _ => only_ite (fun _ => only_pure _) fun _ =>
    (only_readReg _).bind fun _ => (only_memReadWordSys _).bind fun _ => only_writeReg _ _

theorem only_returnFromHandler (hi : i = .reti) : Only i returnFromHandler :=
  only_pop.bind fun _ => (only_transferTo _).bind fun _ => only_pop.bind fun image =>
    (only_change fun _ => .single (.image image hi)).bind fun _ => only_restoreUserStack

theorem only_transferIf (cond : Bool) (a : Addr) : Only i (transferIf cond a) :=
  only_ite (fun _ => only_transferTo a) fun _ => only_pure _

theorem only_callVia (target : State → Addr) : Only i (callVia target) :=
  only_readPc.bind fun _ => (only_push _).bind fun _ => (only_look _).bind fun _ => only_transferTo _

theorem only_pushFrom (sr : Reg) (form : Word → Word) : Only i (pushFrom sr form) :=
  only_growStack.bind fun _ => (only_readReg _).bind fun _ => (only_readReg _).bind fun _ => only_memWriteWord _ _

theorem only_finishLoad (dr : Reg) (v : Word) (hi : leavesFlags i = false) : Only i (finishLoad dr v) :=
  (only_writeReg dr v).bind fun _ => only_updateFlags v hi

theorem only_loadByte (dr : Reg) (a : Addr) (hi : leavesFlags i = false) : Only i (loadByte dr a) :=
  (only_memReadByte a).bind fun _ => only_finishLoad dr _ hi

theorem only_loadShort (dr : Reg) (a : Addr) (hi : leavesFlags i = false) : Only i (loadShort dr a) :=
  (only_memReadShort a).bind fun _ => only_finishLoad dr _ hi

theorem only_loadWord (dr : Reg) (a : Addr) (hi : leavesFlags i = false) : Only i (loadWord dr a) :=
  (only_memReadWord a).bind fun _ => only_finishLoad dr _ hi

theorem only_storeByte (a : Addr) (sr : Reg) : Only i (storeByte a sr) :=
  (only_readReg sr).bind fun _ => only_memWriteByte a _

theorem only_storeShort (a : Addr) (sr : Reg) : Only i (storeShort a sr) :=
  (only_readReg sr).bind fun _ => only_memWriteShort a _

theorem only_storeWord (a : Addr) (sr : Reg) : Only i (storeWord a sr) :=
  (only_readReg sr).bind fun _ => only_memWriteWord a _

theorem only_portRead (p : Port) (hi : IsIn i) : Only i (portRead p) := by
  intro s
  obtain ⟨v, q, c, d, h, -⟩ := portRead_cases p s
  rw [h]
  exact .single (.input q c d hi)

theorem only_portWrite (p : Port) (v : Word) (hi : IsOut i) : Only i (portWrite p v) :=
  only_ite (fun _ => only_change fun _ => .single (.emit _ hi)) fun _ => only_pure _

theorem only_inputFrom (dr : Reg) (p : Port) (hi : IsIn i) (hf : leavesFlags i = false) : Only i (inputFrom dr p) :=
  only_privCheck.bind fun _ => (only_portRead p hi).bind fun v => only_finishLoad dr v hf

theorem only_outputTo (p : Port) (sr : Reg) (hi : IsOut i) : Only i (outputTo p sr) :=
  only_privCheck.bind fun _ => (only_readReg sr).bind fun v => only_portWrite p v hi

theorem only_setSupervisorStack (a : Addr) (hi : IsSssp i) : Only i (setSupervisorStack a) :=
  only_privCheck.bind fun _ => (only_checkAligned a 4).bind fun _ => only_change fun _ => .single (.ssp a hi)

/-! ## Outcomes -/

/-- Every next state the outcome can be is reached by updates that the instruction may make. -/
def Answers (i : Instr) (s : State) (r : Result) : Prop := ∀ t, r = .next t → Updates i s t

theorem answers_next {s t : State} (h : Updates i s t) : Answers i s (.next t) := by
  rintro _ ⟨⟩
  exact h

theorem answers_perform {act : Act Unit} {s : State} (h : Only i act) : Answers i s (perform act s) := by
  intro t ht
  have hs := h s
  rcases perform_cases ht with hok | ⟨e, u, herr, rfl⟩
  · rwa [hok] at hs
  · rw [herr] at hs
    exact hs.tail (.fault e)

theorem answers_setReg {s : State} (r : Reg) (v : Word) : Answers i s (.next (s.setReg r v)) :=
  answers_next (.single (.reg r v))

theorem answers_setFlags {s : State} {n : Nat} (x : BitVec n) (hi : leavesFlags i = false) :
    Answers i s (.next (s.setFlags x)) :=
  answers_next (.single (.flags x hi))

theorem answers_writeResult {s : State} (dr : Reg) (v : Word) (hi : leavesFlags i = false) :
    Answers i s (.next (s.writeResult dr v)) :=
  answers_next ((ReflTransGen.single (.reg dr v)).tail (.flags v hi))

theorem answers_writeProduct16 {s : State} (dr : Reg) (v : BitVec 16) (hi : leavesFlags i = false) :
    Answers i s (.next (s.writeProduct16 dr v)) :=
  answers_next ((ReflTransGen.single (.reg dr _)).tail (.flags v hi))

theorem answers_writeProduct64 {s : State} (dr : Reg) (v : BitVec 64) (hi : leavesFlags i = false) :
    Answers i s (.next (s.writeProduct64 dr v)) :=
  answers_next (((ReflTransGen.single (.reg dr _)).tail (.reg (nextReg dr) _)).tail (.flags v hi))

end Actions

/-- Every instruction makes only the updates that are its own, in every state and whether or not it raises an error. -/
theorem exec_answers (i : Instr) (s : State) : Answers i s (exec i s) := by
  cases i with
  | addR | addI | subR | subI | mulsi | mulsu | neg | andR | andI | orR | orI | not | xorR | xorI
  | shflR | shflI | shfrzR | shfrzI | shfraR | shfraI => exact answers_writeResult _ _ rfl
  | mulbi | mulbu => exact answers_writeProduct16 _ _ rfl
  | mulwi | mulwu => exact answers_writeProduct64 _ _ rfl
  | cmpR | cmpI => exact answers_setFlags _ rfl
  | cpy | cpyi | cpyu => exact answers_setReg _ _
  | jcA | jcR | jcX => exact answers_perform (only_transferIf _ _)
  | jmpA | jmpR | jmpX => exact answers_perform (only_transferTo _)
  | callA | callR | callX => exact answers_perform (only_callVia _)
  | scl n =>
    exact answers_perform ((only_memReadWordSys _).bind fun entry => (only_require _ _).bind fun _ =>
      only_enterSupervisor true entry ⟨n, rfl⟩)
  | ret => exact answers_perform (only_pop.bind fun _ => only_transferTo _)
  | reti => exact answers_perform (only_privCheck.bind fun _ => only_returnFromHandler rfl)
  | ldbA | ldbR | ldbX => exact answers_perform (only_loadByte _ _ rfl)
  | ldsA | ldsR | ldsX => exact answers_perform (only_loadShort _ _ rfl)
  | ldwA | ldwR | ldwX => exact answers_perform (only_loadWord _ _ rfl)
  | stbA | stbR | stbX => exact answers_perform (only_storeByte _ _)
  | stsA | stsR | stsX => exact answers_perform (only_storeShort _ _)
  | stwA | stwR | stwX => exact answers_perform (only_storeWord _ _)
  | pushi | pushu => exact answers_perform (only_push _)
  | pushb | pushs | pushw => exact answers_perform (only_pushFrom _ _)
  | popb =>
    exact answers_perform ((only_readReg _).bind fun _ => (only_memReadByte _).bind fun _ =>
      (only_readReg _).bind fun _ => (only_writeReg _ _).bind fun _ => only_shrinkStack)
  | pops =>
    exact answers_perform ((only_readReg _).bind fun _ => (only_memReadShort _).bind fun _ =>
      (only_readReg _).bind fun _ => (only_writeReg _ _).bind fun _ => only_shrinkStack)
  | popw =>
    exact answers_perform ((only_readReg _).bind fun _ => (only_memReadWord _).bind fun _ =>
      (only_writeReg _ _).bind fun _ => only_shrinkStack)
  | inR a b => exact answers_perform (only_inputFrom _ _ (.inl ⟨a, b, rfl⟩) rfl)
  | inI a p => exact answers_perform (only_inputFrom _ _ (.inr ⟨a, p, rfl⟩) rfl)
  | outR a b => exact answers_perform (only_outputTo _ _ (.inl ⟨a, b, rfl⟩))
  | outI p b => exact answers_perform (only_outputTo _ _ (.inr ⟨p, b, rfl⟩))
  | ssspA a => exact answers_perform (only_setSupervisorStack _ (.inl ⟨a, rfl⟩))
  | ssspR r => exact answers_perform (only_setSupervisorStack _ (.inr ⟨r, rfl⟩))
  | halt => exact answers_perform (only_privCheck.bind fun _ => only_change fun _ => .single (.halt rfl))

/-- Every instruction makes only the updates that are its own. -/
theorem exec_updates {i : Instr} {s t : State} (h : exec i s = .next t) : Updates i s t := exec_answers i s t h

end Sys2Proof.Machine
end

section
/-! What a privileged instruction does in user mode, what the environment leaves as it was, and everything one step can
do, in the words of the statements. -/

namespace Sys2Proof.Machine

/-- A privileged instruction begins with its privilege check. -/
theorem exec_privileged {i : Instr} (hi : isPrivileged i = true) (s : State) :
    ∃ rest : Unit → Act Unit, exec i s = perform (privCheck >>= rest) s := by
  cases i with
  | inR | inI | outR | outI | ssspA | ssspR | halt | reti => exact ⟨_, rfl⟩
  | _ => cases hi

/-- In user mode a privileged instruction records its error and does nothing else (45_system_io.md R220). -/
theorem exec_privileged_user {i : Instr} (hi : isPrivileged i = true) {s : State} (hs : s.supervisor = false) :
    exec i s = .next (s.withFault .privilegeViolation) := by
  obtain ⟨rest, h⟩ := exec_privileged hi s
  rw [h]
  exact perform_error (Act.bind_error (by rw [privCheck_eq, hs]; rfl))

/-- A privileged instruction that changes anything but the record of an error runs in supervisor mode. -/
theorem supervisor_of_privileged {i : Instr} (hi : isPrivileged i = true) {s t : State} (h : exec i s = .next t)
    (hne : ∀ e, t ≠ s.withFault e) : s.supervisor = true := by
  by_contra hs
  rw [exec_privileged_user hi (Bool.not_eq_true _ ▸ hs)] at h
  cases h
  exact hne _ rfl

/-- An action behind the privilege check, in supervisor mode. -/
theorem privCheck_bind_supervisor {α : Type} {s : State} (hs : s.supervisor = true) (rest : Unit → Act α) :
    (privCheck >>= rest) s = rest () s :=
  Act.bind_ok (by rw [privCheck_eq, hs]; rfl)

theorem IsIn.isPrivileged {i : Instr} (hi : IsIn i) : isPrivileged i = true := by
  rcases hi with ⟨a, b, rfl⟩ | ⟨a, p, rfl⟩ <;> rfl

theorem IsOut.isPrivileged {i : Instr} (hi : IsOut i) : isPrivileged i = true := by
  rcases hi with ⟨a, b, rfl⟩ | ⟨p, b, rfl⟩ <;> rfl

theorem IsSssp.isPrivileged {i : Instr} (hi : IsSssp i) : isPrivileged i = true := by
  rcases hi with ⟨a, rfl⟩ | ⟨r, rfl⟩ <;> rfl

/-- The environment changes the input queue, the pending set and the tape of arrivals, and nothing else. -/
theorem environment_frame (s : State) :
    ∃ q vs l, environment s = { s with inQueue := q, pending := vs, arrivals := l } := by
  rcases environment_cases s with ⟨-, h⟩ | ⟨bs, later, -, ⟨-, h⟩ | ⟨-, -, h⟩⟩
  · exact ⟨_, _, _, h⟩
  · exact ⟨_, _, _, h⟩
  · exact ⟨_, _, _, h⟩

/-- A field outside the three is as it was at the boundary. -/
theorem environment_preserves {α : Type} {f : State → α}
    (hf : ∀ (s : State) q vs l, f { s with inQueue := q, pending := vs, arrivals := l } = f s) (s : State) :
    f (environment s) = f s := by
  obtain ⟨q, vs, l, h⟩ := environment_frame s
  rw [h, hf]

@[simp] theorem environment_pc (s : State) : (environment s).pc = s.pc :=
  environment_preserves (f := State.pc) (fun _ _ _ _ => rfl) s

@[simp] theorem environment_ms (s : State) : (environment s).ms = s.ms :=
  environment_preserves (f := State.ms) (fun _ _ _ _ => rfl) s

@[simp] theorem environment_ssp (s : State) : (environment s).ssp = s.ssp :=
  environment_preserves (f := State.ssp) (fun _ _ _ _ => rfl) s

@[simp] theorem environment_mem (s : State) : (environment s).mem = s.mem :=
  environment_preserves (f := State.mem) (fun _ _ _ _ => rfl) s

@[simp] theorem environment_halted (s : State) : (environment s).halted = s.halted :=
  environment_preserves (f := State.halted) (fun _ _ _ _ => rfl) s

@[simp] theorem environment_output (s : State) : (environment s).output = s.output :=
  environment_preserves (f := State.output) (fun _ _ _ _ => rfl) s

@[simp] theorem environment_clock (s : State) : (environment s).clock = s.clock :=
  environment_preserves (f := State.clock) (fun _ _ _ _ => rfl) s

/-- Everything an instruction cycle can do once nothing is pending: an error of the fetch or of a word that is no
instruction is recorded, or the instruction at `pc` is executed with `pc` advanced. -/
theorem runInstruction_cases {s t : State} (h : runInstruction s = .next t) :
    (∃ e, t = s.withFault e) ∨ (∃ e, t = (s.setPc (s.pc + 4#20)).withFault e) ∨
      ∃ i, isWord (wordAt s s.pc) i ∧ exec i (s.setPc (s.pc + 4#20)) = .next t := by
  unfold runInstruction at h
  split at h
  · next e u hf =>
    obtain rfl : u = s := by
      rw [fetch_eq] at hf
      split at hf <;> [split at hf; skip] <;> cases hf <;> rfl
    cases h
    exact .inl ⟨e, rfl⟩
  · next w u hf =>
    obtain ⟨rfl, rfl⟩ : w = wordAt s s.pc ∧ u = s.setPc (s.pc + 4#20) := by
      rw [fetch_eq] at hf
      split at hf <;> [split at hf; skip] <;> cases hf
      exact ⟨rfl, rfl⟩
    split at h
    · next i hi => exact .inr (.inr ⟨i, hi, h⟩)
    · cases h
      exact .inr (.inl ⟨_, rfl⟩)

/-- Everything a step that answers a next state can do, after the environment has acted: nothing, in a terminal state;
the service of a pending vector; with nothing pending, the record of an error of the fetch or of the word; or the
instruction at `pc`. -/
theorem step_next_cases {s t : State} (h : step s = .next t) :
    t = environment s ∨
      (∃ v vs d, (environment s).pending ≠ [] ∧
        perform (serviceInterrupt v) { environment s with pending := vs, draws := d } = .next t) ∨
      (environment s).pending = [] ∧
        ((∃ e, t = (environment s).withFault e) ∨ (∃ e, t = ((environment s).setPc (s.pc + 4#20)).withFault e) ∨
          ∃ i, isWord (wordAt s s.pc) i ∧ exec i ((environment s).setPc (s.pc + 4#20)) = .next t) := by
  rcases step_cases s with ⟨-, hc⟩ | ⟨r, -, ⟨-, hr⟩ | ⟨-, hn⟩⟩
  · rw [hc, cycle] at h
    rcases takePending_cases (environment s) with ⟨hp, ht⟩ | ⟨v, d, hv, ht⟩
    · rw [ht] at h
      have hw : wordAt (environment s) (environment s).pc = wordAt s s.pc := by
        simp only [wordAt, environment_mem, environment_pc]
      have hr := runInstruction_cases h
      rw [hw, environment_pc] at hr
      exact .inr (.inr ⟨hp, hr⟩)
    · rw [ht] at h
      exact .inr (.inl ⟨v, _, d, List.ne_nil_of_mem hv, h⟩)
  · rw [hr] at h
    cases h
  · rw [hn] at h
    cases h
    exact .inl rfl

end Sys2Proof.Machine
end

section
/-! The obligations of 10_state.md: the state at reset, and who may change the supervisor stack pointer, the flags, the
devices, and, in user mode, anything protected. -/

namespace Sys2Proof.Machine

/-! ## The state at reset -/

/-- A byte of a memory that lists nothing and gives the address 0x00. -/
theorem Memory.readByte_nil {a : Addr} (ha : a.toNat < 0x200) : Memory.readByte [] a = 0x00#8 := by
  simp [Memory.readByte, Memory.lookup, Memory.unlisted, ha]

/-- Settles O39: memory at reset lists no byte, so each reads as an unlisted one. -/
theorem resetState : Obligations.ResetState := by
  refine ⟨fun r => ?_, rfl, rfl, rfl, fun a ha => Memory.readByte_nil ha, fun a ha => ?_⟩
  · simp [State.reg, State.reset]
  · have hlow : ¬ a.toNat < 0x200 := Nat.not_lt.mpr ha
    exact if_neg hlow

/-! ## The supervisor stack pointer -/

/-- No update but SSSP's writes `ssp`. -/
theorem Updates.ssp_eq {i : Instr} (hi : ¬ IsSssp i) {s t : State} (h : Updates i s t) : t.ssp = s.ssp := by
  refine Updates.preserves (f := State.ssp) (fun u v hu => ?_) h
  cases hu with
  | ssp a hs => exact absurd hs hi
  | _ => rfl

/-- The service of an interrupt leaves `ssp` as it is (60_exceptions.md R255). -/
theorem serviceInterrupt_ssp {v : Vect} {s t : State} (h : perform (serviceInterrupt v) s = .next t) :
    t.ssp = s.ssp :=
  Updates.ssp_eq (i := .scl 0) (by rintro (⟨_, h⟩ | ⟨_, h⟩) <;> cases h)
    (answers_perform (only_serviceInterrupt v ⟨0, rfl⟩) t h)

/-- An instruction that changes `ssp` is SSSP in supervisor mode. -/
theorem exec_ssp_ne {i : Instr} {s t : State} (h : exec i s = .next t) (hne : t.ssp ≠ s.ssp) :
    s.supervisor = true ∧ IsSssp i := by
  have hi : IsSssp i := by
    by_contra hi
    exact hne ((exec_updates h).ssp_eq hi)
  refine ⟨supervisor_of_privileged hi.isPrivileged h ?_, hi⟩
  rintro e rfl
  exact hne rfl

/-- Settles O52: of everything a step can do, only the execution of an instruction can change `ssp`. -/
theorem onlySsspWritesSsp : Obligations.OnlySsspWritesSsp := by
  intro s t h hne
  rcases step_next_cases h with rfl | ⟨v, vs, d, -, hv⟩ | ⟨hp, ⟨e, rfl⟩ | ⟨e, rfl⟩ | ⟨i, hw, hx⟩⟩
  · exact absurd (environment_ssp s) hne
  · exact absurd ((serviceInterrupt_ssp hv).trans (environment_ssp s)) hne
  · exact absurd (environment_ssp s) hne
  · exact absurd (environment_ssp s) hne
  · have hne' : t.ssp ≠ ((environment s).setPc (s.pc + 4#20)).ssp := by simpa using hne
    obtain ⟨hs, hi⟩ := exec_ssp_ne hx hne'
    refine ⟨hp, by simpa [State.supervisor, modeIndicator] using hs, ?_⟩
    rcases hi with ⟨a, rfl⟩ | ⟨r, rfl⟩
    · exact .inl ⟨a, hw⟩
    · exact .inr ⟨r, hw⟩

/-! ## The bits of `ms` -/

/-- An instruction other than RETI leaves every bit of `ms` but MI as it is, the flags too if it is one that R32
lists. -/
theorem Updates.ms_bit {i : Instr} (hi : i ≠ .reti) {k : Nat} (hk : k ≠ 16) (hf : leavesFlags i = true ∨ 3 ≤ k)
    {s t : State} (h : Updates i s t) : t.ms.getLsbD k = s.ms.getLsbD k := by
  refine Updates.preserves (f := fun u => u.ms.getLsbD k) (fun u v hu => ?_) h
  cases hu with
  | flags x hx =>
    have h3 : 3 ≤ k := hf.resolve_left (by simp [hx])
    show (withFlagsOf x u.ms).getLsbD k = _
    rw [getLsbD_withFlagsOf, if_neg (by omega), if_neg (by omega), if_neg (by omega)]
  | mode =>
    show (withSupervisor u.ms).getLsbD k = _
    simp [getLsbD_withSupervisor, hk]
  | image v hv => exact absurd hv hi
  | _ => rfl

/-- Settles O53: both halves are `Updates.ms_bit`; RETI is none of the instructions R32 lists. -/
theorem flagsLeftAlone : Obligations.FlagsLeftAlone := by
  intro i s t h
  refine ⟨fun hf k hk => ?_, fun hi k hk hk16 => (exec_updates h).ms_bit hi hk16 (.inr hk)⟩
  have hi : i ≠ .reti := by
    rintro rfl
    cases hf
  exact (exec_updates h).ms_bit hi (by omega) (.inl hf)

/-! ## The devices -/

/-- No update but OUT's puts out a byte. -/
theorem Updates.output_eq {i : Instr} (hi : ¬ IsOut i) {s t : State} (h : Updates i s t) : t.output = s.output := by
  refine Updates.preserves (f := State.output) (fun u v hu => ?_) h
  cases hu with
  | emit b ho => exact absurd ho hi
  | _ => rfl

/-- No update but IN's reaches the input queue, the clock or the count of draws. -/
theorem Updates.input_eq {i : Instr} (hi : ¬ IsIn i) {s t : State} (h : Updates i s t) :
    t.inQueue = s.inQueue ∧ t.clock = s.clock ∧ t.draws = s.draws := by
  have hall := Updates.preserves (f := fun u => (u.inQueue, u.clock, u.draws)) (fun u v hu => ?_) h
  · simpa using hall
  · cases hu with
    | input q c d hin => exact absurd hin hi
    | _ => rfl

/-- OUT in supervisor mode completes, and puts out one byte or none. -/
theorem outputTo_output {p : Port} {sr : Reg} {s t : State} (hs : s.supervisor = true)
    (h : perform (outputTo p sr) s = .next t) : t.output = s.output ∨ ∃ b, t.output = s.output ++ [b] := by
  have hok : outputTo p sr s = .ok () (if p = 12#8 then s.emit ((s.reg sr).setWidth 8) else s) := by
    rw [outputTo, privCheck_bind_supervisor hs, Act.bind_ok (readReg_apply sr s), portWrite_eq]
  rw [perform_ok hok] at h
  cases h
  split
  · exact .inr ⟨_, rfl⟩
  · exact .inl rfl

/-- IN in supervisor mode completes, and takes the first byte of the input queue or none. -/
theorem inputFrom_inQueue {p : Port} {dr : Reg} {s t : State} (hs : s.supervisor = true)
    (h : perform (inputFrom dr p) s = .next t) : t.inQueue = s.inQueue ∨ ∃ b, s.inQueue = b :: t.inQueue := by
  obtain ⟨v, q, c, d, hr, hq⟩ := portRead_cases p s
  have hok : inputFrom dr p s = .ok () (({ s with inQueue := q, clock := c, draws := d } : State).writeResult dr v) := by
    rw [inputFrom, privCheck_bind_supervisor hs, Act.bind_ok hr]
    rfl
  rw [perform_ok hok] at h
  cases h
  exact hq

/-- An instruction that changes the output is OUT in supervisor mode, and it puts out one byte. -/
theorem exec_output_ne {i : Instr} {s t : State} (h : exec i s = .next t) (hne : t.output ≠ s.output) :
    s.supervisor = true ∧ IsOut i ∧ ∃ b, t.output = s.output ++ [b] := by
  have hi : IsOut i := by
    by_contra hi
    exact hne ((exec_updates h).output_eq hi)
  have hs : s.supervisor = true := supervisor_of_privileged hi.isPrivileged h (by rintro e rfl; exact hne rfl)
  refine ⟨hs, hi, ?_⟩
  rcases hi with ⟨a, b, rfl⟩ | ⟨p, b, rfl⟩
  · exact (outputTo_output hs h).resolve_left hne
  · exact (outputTo_output hs h).resolve_left hne

/-- An instruction that changes the input queue, the clock or the count of draws is IN in supervisor mode. -/
theorem exec_input_ne {i : Instr} {s t : State} (h : exec i s = .next t)
    (hne : t.inQueue ≠ s.inQueue ∨ t.clock ≠ s.clock ∨ t.draws ≠ s.draws) : s.supervisor = true ∧ IsIn i := by
  have hi : IsIn i := by
    by_contra hi
    obtain ⟨hq, hc, hd⟩ := (exec_updates h).input_eq hi
    simp [hq, hc, hd] at hne
  refine ⟨supervisor_of_privileged hi.isPrivileged h ?_, hi⟩
  rintro e rfl
  simp at hne

/-- IN takes the first byte of the queue if it changes the queue. -/
theorem exec_inQueue_ne {i : Instr} {s t : State} (h : exec i s = .next t) (hne : t.inQueue ≠ s.inQueue) :
    ∃ b, s.inQueue = b :: t.inQueue := by
  obtain ⟨hs, ⟨a, b, rfl⟩ | ⟨a, p, rfl⟩⟩ := exec_input_ne h (.inl hne)
  · exact (inputFrom_inQueue hs h).resolve_left hne
  · exact (inputFrom_inQueue hs h).resolve_left hne

/-- Settles O55, from what an instruction that changes the output, or the input side, must be. -/
theorem devicesOnlyThroughPorts : Obligations.DevicesOnlyThroughPorts := by
  intro i s t h
  refine ⟨exec_output_ne h, fun hne => ?_, fun hne => exec_input_ne h (.inr hne)⟩
  obtain ⟨hs, hi⟩ := exec_input_ne h (.inl hne)
  exact ⟨hs, hi, exec_inQueue_ne h hne⟩

/-! ## User mode -/

/-- What a step in user mode without a mode switch leaves as it was: the protected bytes, `ssp`, every bit of `ms` but
the flags, the halted state and the devices (20_memory.md R62, R63; 60_exceptions.md R248). -/
structure Confined (s t : State) : Prop where
  bytes : ∀ a : Addr, a.toNat < 0x08000 → t.mem.readByte a = s.mem.readByte a
  ssp : t.ssp = s.ssp
  ms : ∀ k, 3 ≤ k → t.ms.getLsbD k = s.ms.getLsbD k
  halted : t.halted = s.halted
  output : t.output = s.output
  clock : t.clock = s.clock
  inQueue : t.inQueue = s.inQueue

theorem Confined.refl (s : State) : Confined s s := ⟨fun _ _ => rfl, rfl, fun _ _ => rfl, rfl, rfl, rfl, rfl⟩

theorem Confined.trans {s t u : State} (h : Confined s t) (h' : Confined t u) : Confined s u where
  bytes a ha := (h'.bytes a ha).trans (h.bytes a ha)
  ssp := h'.ssp.trans h.ssp
  ms k hk := (h'.ms k hk).trans (h.ms k hk)
  halted := h'.halted.trans h.halted
  output := h'.output.trans h.output
  clock := h'.clock.trans h.clock
  inQueue := h'.inQueue.trans h.inQueue

/-- A confined change leaves the machine in the mode it is in. -/
theorem Confined.supervisor {s t : State} (h : Confined s t) : t.supervisor = s.supervisor := h.ms 16 (by decide)

/-- A state that differs from a confined one by the record of an error is confined. -/
theorem Confined.withFault {s t : State} (h : Confined s t) (e : MachineError) : Confined s (t.withFault e) :=
  ⟨h.bytes, h.ssp, h.ms, h.halted, h.output, h.clock, h.inQueue⟩

/-- Memory replaced by one with the same protected bytes. -/
theorem Confined.of_setMem {s : State} {m : Memory}
    (h : ∀ a : Addr, a.toNat < 0x08000 → m.readByte a = s.mem.readByte a) : Confined s (s.setMem m) :=
  { Confined.refl s with bytes := h }

/-- In user mode an access is allowed from 0x08000 up only (20_memory.md R62). -/
theorem le_of_mayAccess {s : State} (hs : s.supervisor = false) {a : Addr} (ha : s.mayAccess a = true) :
    0x08000 ≤ a.toNat := by
  simpa [State.mayAccess, hs, protectedLimit] using ha

/-- An aligned store from 0x08000 up reaches no protected byte: it does not wrap at the top of the address space. -/
theorem ne_add_of_aligned {a c : Addr} {n k : Nat} (hn : aligned a n = true) (hdvd : n ∣ 2 ^ 20) (hk : k < n)
    (ha : 0x08000 ≤ a.toNat) (hc : c.toNat < 0x08000) : c ≠ a + BitVec.ofNat 20 k := by
  have hmod : n ∣ a.toNat := Nat.dvd_of_mod_eq_zero (by simpa [aligned] using hn)
  have hfit : a.toNat + k < 2 ^ 20 := by
    obtain ⟨p, hp⟩ := hmod
    obtain ⟨q, hq⟩ := hdvd
    have hpq : p < q := by
      have hlt := a.isLt
      rw [hp, hq] at hlt
      exact Nat.lt_of_mul_lt_mul_left hlt
    calc a.toNat + k < n * p + n := by omega
      _ = n * (p + 1) := by ring
      _ ≤ n * q := Nat.mul_le_mul_left n hpq
      _ = 2 ^ 20 := hq.symm
  rintro rfl
  rw [BitVec.toNat_add, BitVec.toNat_ofNat, Nat.add_mod_mod, Nat.mod_eq_of_lt hfit] at hc
  omega

/-- In user mode no update of an instruction that is neither privileged nor SCL leaves its confines. -/
theorem Update.confined {i : Instr} (hp : isPrivileged i = false) (hscl : ¬ IsScl i) {s t : State}
    (hs : s.supervisor = false) (h : Update i s t) : Confined s t := by
  have hin : ¬ IsIn i := fun h => by simp [h.isPrivileged] at hp
  have hout : ¬ IsOut i := fun h => by simp [h.isPrivileged] at hp
  have hsssp : ¬ IsSssp i := fun h => by simp [h.isPrivileged] at hp
  cases h with
  | reg | pc | fault => exact { Confined.refl s with }
  | flags x =>
    refine { Confined.refl s with ms := fun k hk => ?_ }
    rw [State.setFlags_ms, getLsbD_withFlagsOf, if_neg (by omega), if_neg (by omega), if_neg (by omega)]
  | @byte a v ha =>
    have hle := le_of_mayAccess hs ha
    refine Confined.of_setMem fun c hc => Memory.readByte_writeByte_ne _ _ ?_
    rintro rfl
    omega
  | @short a v hn ha =>
    have hne (c : Addr) (hc : c.toNat < 0x08000) (k : Nat) (hk : k < 2) : c ≠ a + BitVec.ofNat 20 k :=
      ne_add_of_aligned hn (by decide) hk (le_of_mayAccess hs ha) hc
    exact Confined.of_setMem fun c hc => Memory.readByte_writeShort_ne _ _
      (by simpa using hne c hc 0 (by decide)) (hne c hc 1 (by decide))
  | @word a v hn ha =>
    have hne (c : Addr) (hc : c.toNat < 0x08000) (k : Nat) (hk : k < 4) : c ≠ a + BitVec.ofNat 20 k :=
      ne_add_of_aligned hn (by decide) hk (le_of_mayAccess hs ha) hc
    exact Confined.of_setMem fun c hc => Memory.readByte_writeWord_ne _ _
      (by simpa using hne c hc 0 (by decide)) (hne c hc 1 (by decide)) (hne c hc 2 (by decide)) (hne c hc 3 (by decide))
  | frame _ _ hi | mode hi => exact absurd hi hscl
  | image _ hi | halt hi =>
    subst hi
    cases hp
  | ssp _ hi => exact absurd hi hsssp
  | emit _ hi => exact absurd hi hout
  | input _ _ _ hi => exact absurd hi hin

/-- In user mode no sequence of updates of an instruction that is neither privileged nor SCL leaves its confines: each
leaves the machine in user mode for the next. -/
theorem Updates.confined {i : Instr} (hp : isPrivileged i = false) (hscl : ¬ IsScl i) {s t : State}
    (hs : s.supervisor = false) (h : Updates i s t) : Confined s t := by
  induction h with
  | refl => exact .refl s
  | tail _ hu ih => exact ih.trans (hu.confined hp hscl (ih.supervisor.trans hs))

/-- In user mode no instruction but SCL leaves its confines. -/
theorem exec_confined {i : Instr} (hscl : ¬ IsScl i) {s t : State} (hs : s.supervisor = false)
    (h : exec i s = .next t) : Confined s t := by
  cases hp : isPrivileged i with
  | true =>
    rw [exec_privileged_user hp hs] at h
    cases h
    exact (Confined.refl s).withFault _
  | false => exact (exec_updates h).confined hp hscl hs

/-- In user mode, with nothing pending and no SCL at `pc`, a step goes on from what the environment left without
leaving its confines. -/
theorem step_confined {s t : State} (h : step s = .next t) (hs : s.supervisor = false)
    (hp : (environment s).pending = []) (hscl : ∀ n, ¬ isWord (wordAt s s.pc) (.scl n)) :
    Confined (environment s) t := by
  have hpc : Confined (environment s) ((environment s).setPc (s.pc + 4#20)) := { Confined.refl (environment s) with }
  rcases step_next_cases h with rfl | ⟨v, vs, d, hne, -⟩ | ⟨-, ⟨e, rfl⟩ | ⟨e, rfl⟩ | ⟨i, hw, hx⟩⟩
  · exact .refl _
  · exact absurd hp hne
  · exact (Confined.refl _).withFault e
  · exact hpc.withFault e
  · have hi : ¬ IsScl i := by
      rintro ⟨n, rfl⟩
      exact hscl n hw
    have hs' : ((environment s).setPc (s.pc + 4#20)).supervisor = false := by
      simpa [State.supervisor] using hs
    exact hpc.trans (exec_confined hi hs' hx)

/-- Settles O56: a step in user mode is confined (`step_confined`), and the environment touches nothing confined but
the input queue. -/
theorem userModeCannotWrite : Obligations.UserModeCannotWrite := by
  intro s t h hs hp hscl
  have hc := step_confined h hs hp hscl
  exact ⟨by simpa using hc.bytes, by simpa using hc.ssp, by simpa using hc.ms, by simpa using hc.halted,
    by simpa using hc.output, by simpa using hc.clock, hc.inQueue⟩

end Sys2Proof.Machine
end

section
/-! Mixed widths (20_memory.md R50, R51): a word and a short are their bytes in little-endian order, so what any narrower
read finds after a write follows from what each byte reads as. -/

namespace Sys2Proof.Machine

/-- Byte `k` of a word just written is its bits from `8 * k` on. -/
theorem Memory.readByte_writeWord_add {m : Memory} (a : Addr) (v : Word) (hm : m.wf = true) {k : Nat} (hk : k < 4) :
    (m.writeWord a v).readByte (a + BitVec.ofNat 20 k) = v.extractLsb' (8 * k) 8 := by
  obtain ⟨h0, h1, h2, h3⟩ := Memory.readByte_writeWord a v hm
  match k, hk with
  | 0, _ => simpa [field] using h0
  | 1, _ => exact h1
  | 2, _ => exact h2
  | 3, _ => exact h3

/-- Byte `k` of a short just written is its bits from `8 * k` on. -/
theorem Memory.readByte_writeShort_add {m : Memory} (a : Addr) (v : Short) (hm : m.wf = true) {k : Nat} (hk : k < 2) :
    (m.writeShort a v).readByte (a + BitVec.ofNat 20 k) = v.extractLsb' (8 * k) 8 := by
  obtain ⟨h0, h1⟩ := Memory.readByte_writeShort a v hm
  match k, hk with
  | 0, _ => simpa using h0
  | 1, _ => exact h1

/-- The short at byte `k` of a word just written is the word's bits from `8 * k` on. -/
theorem Memory.readShort_writeWord {m : Memory} (a : Addr) (v : Word) (hm : m.wf = true) {k : Nat} (hk : k + 1 < 4) :
    (m.writeWord a v).readShort (a + BitVec.ofNat 20 k) = v.extractLsb' (8 * k) 16 := by
  have hnext : a + BitVec.ofNat 20 k + 1#20 = a + BitVec.ofNat 20 (k + 1) := by
    rw [BitVec.ofNat_add, BitVec.add_assoc]
  rw [Memory.readShort, hnext, Memory.readByte_writeWord_add a v hm hk,
    Memory.readByte_writeWord_add a v hm (Nat.lt_of_succ_lt hk)]
  exact BitVec.extractLsb'_append_extractLsb'_eq_extractLsb' (Nat.mul_succ 8 k)

/-- A short just written reads back. -/
theorem Memory.readShort_writeShort {m : Memory} (a : Addr) (v : Short) (hm : m.wf = true) :
    (m.writeShort a v).readShort a = v := by
  obtain ⟨h0, h1⟩ := Memory.readByte_writeShort a v hm
  calc (m.writeShort a v).readShort a = v.extractLsb' 8 8 ++ v.extractLsb' 0 8 := by rw [Memory.readShort, h0, h1]
    _ = v.extractLsb' 0 16 := BitVec.extractLsb'_append_extractLsb'_eq_extractLsb' rfl
    _ = v := BitVec.extractLsb'_eq_self

/-- An address that is none of the `n` bytes from `a` on differs from each of them. -/
theorem ne_add_of_not_isWithin {a c : Addr} {n k : Nat} (hc : ¬ isWithin a n c) (hk : k < n) :
    c ≠ a + BitVec.ofNat 20 k :=
  fun h => hc ⟨k, hk, h⟩

/-- A word write leaves every byte but its four as it was. -/
theorem Memory.readByte_writeWord_of_not_isWithin (m : Memory) {a c : Addr} (v : Word) (hc : ¬ isWithin a 4 c) :
    (m.writeWord a v).readByte c = m.readByte c :=
  Memory.readByte_writeWord_ne m v (by simpa using ne_add_of_not_isWithin hc (k := 0) (by decide))
    (ne_add_of_not_isWithin hc (k := 1) (by decide)) (ne_add_of_not_isWithin hc (k := 2) (by decide))
    (ne_add_of_not_isWithin hc (k := 3) (by decide))

/-- A short write leaves every byte but its two as it was. -/
theorem Memory.readByte_writeShort_of_not_isWithin (m : Memory) {a c : Addr} (v : Short) (hc : ¬ isWithin a 2 c) :
    (m.writeShort a v).readByte c = m.readByte c :=
  Memory.readByte_writeShort_ne m v (by simpa using ne_add_of_not_isWithin hc (k := 0) (by decide))
    (ne_add_of_not_isWithin hc (k := 1) (by decide))

/-- Settles O58, one lemma for each width read after each width written. The alignment is not used: addresses wrap, so
the bytes of a word are four distinct ones at any address. -/
theorem memoryLayout : Obligations.MemoryLayout := by
  intro m a v h hm
  refine ⟨fun _ => ⟨Memory.readWord_writeWord a v hm, ?_, Memory.readShort_writeWord a v hm (k := 2) (by decide),
      fun k hk => Memory.readByte_writeWord_add a v hm hk,
      fun c hc => Memory.readByte_writeWord_of_not_isWithin m v hc, Memory.wf_writeWord a v hm⟩,
    fun _ => ⟨Memory.readShort_writeShort a h hm, fun k hk => Memory.readByte_writeShort_add a h hm hk,
      fun c hc => Memory.readByte_writeShort_of_not_isWithin m h hc, Memory.wf_writeShort a h hm⟩⟩
  simpa using Memory.readShort_writeWord a v hm (k := 0) (by decide)

end Sys2Proof.Machine
end

section
/-! The formats of 30_encoding.md (R82 to R94) read both ways. A format is a concatenation of fields, so a word is the
encoding of an instruction exactly when each of its fields is the one the format shows; each format's decoder answers an
instruction for exactly those words. Both round trips are this equivalence, one opcode of R97 at a time. -/

namespace Sys2Proof.Laws

/-! ## A word as a concatenation of fields -/

/-- Concatenations of the same widths are equal part by part. -/
theorem append_eq_append_iff {n k : Nat} {x x' : BitVec n} {y y' : BitVec k} :
    x ++ y = x' ++ y' ↔ x = x' ∧ y = y' := by
  constructor
  · intro h
    have hx := congrArg (BitVec.extractLsb' k n) h
    have hy := congrArg (BitVec.extractLsb' 0 k) h
    rw [BitVec.extractLsb'_append_eq_left, BitVec.extractLsb'_append_eq_left] at hx
    rw [BitVec.extractLsb'_append_eq_right, BitVec.extractLsb'_append_eq_right] at hy
    exact ⟨hx, hy⟩
  · rintro ⟨rfl, rfl⟩
    rfl

/-- A field is its upper bits followed by its lower bits. -/
theorem field_append (w : Word) (lo n k : Nat) : field w lo (n + k) = field w (lo + k) n ++ field w lo k :=
  (BitVec.extractLsb'_append_extractLsb'_eq_extractLsb' rfl).symm

/-- A field spells a concatenation when its upper and its lower bits spell the two parts. -/
theorem field_eq_append_iff {w : Word} {lo n k : Nat} {x : BitVec n} {y : BitVec k} :
    field w lo (n + k) = x ++ y ↔ field w (lo + k) n = x ∧ field w lo k = y := by
  rw [field_append, append_eq_append_iff]

/-- A concatenation is zero when both parts are. -/
theorem append_eq_zero_iff {n k : Nat} {x : BitVec n} {y : BitVec k} : x ++ y = 0#(n + k) ↔ x = 0#n ∧ y = 0#k := by
  rw [← BitVec.zero_append_zero, append_eq_append_iff]

/-- A packed word is the word whose bits, as one field, are those packed. With `field_eq_append_iff` this reads a format
of R82 to R94 as one equation for each of its fields. -/
theorem pack_eq_iff {n : Nat} {x : BitVec n} {h : n = 32} {w : Word} : pack x h = w ↔ field w 0 n = x := by
  subst h
  exact ⟨fun hw => hw ▸ BitVec.extractLsb'_eq_self, fun hw => hw ▸ BitVec.extractLsb'_eq_self⟩

/-- A field of one bit. -/
theorem field_one_eq (w : Word) (k : Nat) : field w k 1 = BitVec.ofBool (bit w k) := by
  apply BitVec.eq_of_getLsbD_eq
  intro i hi
  obtain rfl : i = 0 := by omega
  simp [field, bit]

/-- A row with two Reserved fields needs both to be zero. -/
theorem whenZero_append_ok {n k : Nat} (x : BitVec n) (y : BitVec k) (i j : Instr) :
    whenZero (x ++ y) i = .ok j ↔ (x = 0#n ∧ y = 0#k) ∧ i = j := by
  rw [whenZero_ok, append_eq_zero_iff]

/-- Bits 26:24 of a jump are all set exactly when they are no condition of JC (R102). -/
theorem jump_bits_set_iff (w : Word) : field w 24 3 = 0b111#3 ↔ condOk (bit w 26) (bit w 25) (bit w 24) = false := by
  have hbits : field w 24 3 = field w 26 1 ++ field w 25 1 ++ field w 24 1 := by
    rw [field_append w 24 2 1, field_append w 25 1 1]
  rw [hbits, field_one_eq, field_one_eq, field_one_eq]
  cases bit w 26 <;> cases bit w 25 <;> cases bit w 24 <;> decide

/-- The choice between JMP and JC (R102), by the well-formedness of the JC row. -/
theorem ite_jump_eq (n p z : Bool) (jmp jc : Instr) :
    (if n && p && z then jmp else jc) = if condOk n p z then jc else jmp := by
  unfold condOk
  cases n && p && z <;> rfl

/-! ## The decoder of each format answers exactly the words of its rows

Each proof has the same shape: the rows' words become equations between fields, the decoder splits on the bits that
select a row, and in each branch the two sides are the same equations. (`↓` lets `simp` see the two parts
of a Reserved field before it adds up their widths.) -/

section Formats
variable {w : Word} {j : Instr} {op : BitVec 5}

/-- Formats ALU-R and ALU-I (R82), under any row and opcode. -/
theorem decodeAlu_ok_iff {r : Reg → Reg → Reg → Instr} {i : Reg → Reg → BitVec 16 → Instr} (hop : field w 27 5 = op) :
    decodeAlu r i w = .ok j ↔
      (∃ dr sr1 sr2, pack (op ++ dr ++ sr1 ++ 0b0#1 ++ 0#11 ++ sr2) = w ∧ r dr sr1 sr2 = j) ∨
      ∃ dr sr1 imm16, pack (op ++ dr ++ sr1 ++ 0b1#1 ++ imm16) = w ∧ i dr sr1 imm16 = j := by
  simp only [pack_eq_iff, field_eq_append_iff]
  unfold decodeAlu
  split <;> simp_all [whenZero_ok, field_one_eq]

/-- Formats CMP-R and CMP-I (R82). -/
theorem decodeCmp_ok_iff (hop : field w 27 5 = 0b11011#5) :
    decodeCmp w = .ok j ↔
      (∃ sr1 sr2, encode (.cmpR sr1 sr2) = w ∧ .cmpR sr1 sr2 = j) ∨
      ∃ sr1 imm16, encode (.cmpI sr1 imm16) = w ∧ .cmpI sr1 imm16 = j := by
  simp only [encode, pack_eq_iff, field_eq_append_iff]
  unfold decodeCmp
  split <;> simp_all [whenZero_ok, ↓whenZero_append_ok, field_one_eq]

/-- Format MUL (R83). -/
theorem decodeMul_ok_iff (hop : field w 27 5 = 0b01111#5) :
    decodeMul w = .ok j ↔
      (∃ dr sr1 sr2, encode (.mulbi dr sr1 sr2) = w ∧ .mulbi dr sr1 sr2 = j) ∨
      (∃ dr sr1 sr2, encode (.mulsi dr sr1 sr2) = w ∧ .mulsi dr sr1 sr2 = j) ∨
      (∃ dr sr1 sr2, encode (.mulwi dr sr1 sr2) = w ∧ .mulwi dr sr1 sr2 = j) ∨
      (∃ dr sr1 sr2, encode (.mulbu dr sr1 sr2) = w ∧ .mulbu dr sr1 sr2 = j) ∨
      (∃ dr sr1 sr2, encode (.mulsu dr sr1 sr2) = w ∧ .mulsu dr sr1 sr2 = j) ∨
      ∃ dr sr1 sr2, encode (.mulwu dr sr1 sr2) = w ∧ .mulwu dr sr1 sr2 = j := by
  simp only [encode, pack_eq_iff, field_eq_append_iff]
  unfold decodeMul
  split <;> simp_all [whenZero_ok]

/-- Formats SHF-R and SHF-I (R85). -/
theorem decodeShift_ok_iff (hop : field w 27 5 = 0b10000#5) :
    decodeShift w = .ok j ↔
      (∃ dr sr1 sr2, encode (.shflR dr sr1 sr2) = w ∧ .shflR dr sr1 sr2 = j) ∨
      (∃ dr sr imm5, encode (.shflI dr sr imm5) = w ∧ .shflI dr sr imm5 = j) ∨
      (∃ dr sr1 sr2, encode (.shfrzR dr sr1 sr2) = w ∧ .shfrzR dr sr1 sr2 = j) ∨
      (∃ dr sr imm5, encode (.shfrzI dr sr imm5) = w ∧ .shfrzI dr sr imm5 = j) ∨
      (∃ dr sr1 sr2, encode (.shfraR dr sr1 sr2) = w ∧ .shfraR dr sr1 sr2 = j) ∨
      ∃ dr sr imm5, encode (.shfraI dr sr imm5) = w ∧ .shfraI dr sr imm5 = j := by
  simp only [encode, pack_eq_iff, field_eq_append_iff]
  unfold decodeShift
  split <;> split <;> simp_all [whenZero_ok, field_one_eq]

/-- Format UN (R84), under any row and opcode. -/
theorem decodeUnary_ok_iff {row : Reg → Reg → Instr} (hop : field w 27 5 = op) :
    decodeUnary row w = .ok j ↔ ∃ dr sr, pack (op ++ 0#17 ++ dr ++ sr) = w ∧ row dr sr = j := by
  simp only [pack_eq_iff, field_eq_append_iff]
  simp [decodeUnary, whenZero_ok, hop]

/-- Formats J-A, J-R and J-X (R86, R102). -/
theorem decodeJump_ok_iff (hop : field w 27 5 = 0b10111#5) :
    decodeJump w = .ok j ↔
      (∃ n p z addr20, encode (.jcA n p z addr20) = w ∧ condOk n p z = true ∧ .jcA n p z addr20 = j) ∨
      (∃ n p z sr, encode (.jcR n p z sr) = w ∧ condOk n p z = true ∧ .jcR n p z sr = j) ∨
      (∃ n p z sr1 sr2, encode (.jcX n p z sr1 sr2) = w ∧ condOk n p z = true ∧ .jcX n p z sr1 sr2 = j) ∨
      (∃ addr20, encode (.jmpA addr20) = w ∧ .jmpA addr20 = j) ∨
      (∃ sr, encode (.jmpR sr) = w ∧ .jmpR sr = j) ∨
      ∃ sr1 sr2, encode (.jmpX sr1 sr2) = w ∧ .jmpX sr1 sr2 = j := by
  simp only [encode, pack_eq_iff, field_eq_append_iff]
  simp only [field_one_eq, Nat.reduceAdd, BitVec.ofBool_eq_iff_eq, jump_bits_set_iff]
  unfold decodeJump
  cases hc : condOk (bit w 26) (bit w 25) (bit w 24)
  all_goals
    simp only [ite_jump_eq, hc]
    split <;> simp_all [whenZero_ok, ↓whenZero_append_ok]

/-- Formats CALL-A, CALL-R, CALL-X and SCL (R87). -/
theorem decodeCall_ok_iff (hop : field w 27 5 = 0b01000#5) :
    decodeCall w = .ok j ↔
      (∃ addr20, encode (.callA addr20) = w ∧ .callA addr20 = j) ∨
      (∃ sr, encode (.callR sr) = w ∧ .callR sr = j) ∨
      (∃ sr1 sr2, encode (.callX sr1 sr2) = w ∧ .callX sr1 sr2 = j) ∨
      ∃ imm6, encode (.scl imm6) = w ∧ .scl imm6 = j := by
  simp only [encode, pack_eq_iff, field_eq_append_iff]
  unfold decodeCall
  split
  · simp_all [whenZero_ok, field_one_eq]
  · split <;> simp_all [whenZero_ok, field_one_eq, ↓whenZero_append_ok]

/-- Format RET (R88). -/
theorem decodeRet_ok_iff (hop : field w 27 5 = 0b00011#5) :
    decodeRet w = .ok j ↔ (encode .ret = w ∧ .ret = j) ∨ (encode .reti = w ∧ .reti = j) := by
  simp only [encode, pack_eq_iff, field_eq_append_iff]
  unfold decodeRet
  split <;> simp_all [whenZero_ok, field_one_eq]

/-- Formats LD-A, LD-R and LD-X (R89), under any rows and opcode. -/
theorem decodeLoad_ok_iff {a : Reg → Addr → Instr} {r : Reg → Reg → Instr} {x : Reg → Reg → Reg → Instr}
    (hop : field w 27 5 = op) :
    decodeLoad a r x w = .ok j ↔
      (∃ dr addr20, pack (op ++ dr ++ 0b00#2 ++ addr20) = w ∧ a dr addr20 = j) ∨
      (∃ dr sr, pack (op ++ dr ++ 0b01#2 ++ 0#15 ++ sr) = w ∧ r dr sr = j) ∨
      ∃ dr sr1 sr2, pack (op ++ dr ++ 0b10#2 ++ 0#10 ++ sr1 ++ sr2) = w ∧ x dr sr1 sr2 = j := by
  simp only [pack_eq_iff, field_eq_append_iff]
  unfold decodeLoad
  split <;> simp_all [whenZero_ok]

/-- Formats ST-A, ST-R and ST-X (R90), under any rows and opcode. -/
theorem decodeStore_ok_iff {a : Addr → Reg → Instr} {r : Reg → Reg → Instr} {x : Reg → Reg → Reg → Instr}
    (hop : field w 27 5 = op) :
    decodeStore a r x w = .ok j ↔
      (∃ addr20 sr, pack (op ++ 0b00#2 ++ addr20 ++ sr) = w ∧ a addr20 sr = j) ∨
      (∃ dr sr, pack (op ++ 0b01#2 ++ 0#15 ++ dr ++ sr) = w ∧ r dr sr = j) ∨
      ∃ dr1 dr2 sr, pack (op ++ 0b10#2 ++ 0#10 ++ dr1 ++ dr2 ++ sr) = w ∧ x dr1 dr2 sr = j := by
  simp only [pack_eq_iff, field_eq_append_iff]
  unfold decodeStore
  split <;> simp_all [whenZero_ok]

/-- Formats CPY-R and CPY-I (R91). -/
theorem decodeCopy_ok_iff (hop : field w 27 5 = 0b00010#5) :
    decodeCopy w = .ok j ↔
      (∃ dr sr, encode (.cpy dr sr) = w ∧ .cpy dr sr = j) ∨
      (∃ dr imm16, encode (.cpyi dr imm16) = w ∧ .cpyi dr imm16 = j) ∨
      ∃ dr imm16, encode (.cpyu dr imm16) = w ∧ .cpyu dr imm16 = j := by
  simp only [encode, pack_eq_iff, field_eq_append_iff]
  unfold decodeCopy
  split <;> simp_all [whenZero_ok, ↓whenZero_append_ok]

/-- Formats PUSH-I, PUSH-R and POP (R92). -/
theorem decodeStack_ok_iff (hop : field w 27 5 = 0b11111#5) :
    decodeStack w = .ok j ↔
      (∃ imm16, encode (.pushi imm16) = w ∧ .pushi imm16 = j) ∨
      (∃ imm16, encode (.pushu imm16) = w ∧ .pushu imm16 = j) ∨
      (∃ sr, encode (.pushb sr) = w ∧ .pushb sr = j) ∨
      (∃ sr, encode (.pushs sr) = w ∧ .pushs sr = j) ∨
      (∃ sr, encode (.pushw sr) = w ∧ .pushw sr = j) ∨
      (∃ dr, encode (.popb dr) = w ∧ .popb dr = j) ∨
      (∃ dr, encode (.pops dr) = w ∧ .pops dr = j) ∨
      ∃ dr, encode (.popw dr) = w ∧ .popw dr = j := by
  simp only [encode, pack_eq_iff, field_eq_append_iff]
  unfold decodeStack
  split
  case h_1 => split <;> simp_all [whenZero_ok, field_one_eq]
  all_goals simp_all [whenZero_ok]

/-- Formats IN-R, IN-I, OUT-R and OUT-I (R93). -/
theorem decodeIo_ok_iff (hop : field w 27 5 = 0b01110#5) :
    decodeIo w = .ok j ↔
      (∃ dr sr, encode (.inR dr sr) = w ∧ .inR dr sr = j) ∨
      (∃ dr imm8, encode (.inI dr imm8) = w ∧ .inI dr imm8 = j) ∨
      (∃ dr sr, encode (.outR dr sr) = w ∧ .outR dr sr = j) ∨
      ∃ imm8 sr, encode (.outI imm8 sr) = w ∧ .outI imm8 sr = j := by
  simp only [encode, pack_eq_iff, field_eq_append_iff]
  unfold decodeIo
  split <;> split <;> simp_all [whenZero_ok, field_one_eq, ↓whenZero_append_ok]

/-- Formats SSSP-A and SSSP-R (R94). -/
theorem decodeSssp_ok_iff (hop : field w 27 5 = 0b00110#5) :
    decodeSssp w = .ok j ↔
      (∃ addr20, encode (.ssspA addr20) = w ∧ .ssspA addr20 = j) ∨ ∃ sr, encode (.ssspR sr) = w ∧ .ssspR sr = j := by
  simp only [encode, pack_eq_iff, field_eq_append_iff]
  unfold decodeSssp
  split <;> simp_all [whenZero_ok, ↓whenZero_append_ok, field_one_eq]

/-- Format HALT (R94). -/
theorem whenZero_halt_ok_iff (hop : field w 27 5 = 0b10001#5) :
    whenZero (field w 0 27) .halt = .ok j ↔ encode .halt = w ∧ .halt = j := by
  simp only [encode, pack_eq_iff, field_eq_append_iff]
  simp [whenZero_ok, hop]

end Formats

/-! ## The round trips -/

/-- What a word decodes to is well-formed and encodes to that word. The cases are the lines of `decodeWord`, by
ascending opcode. -/
theorem wellFormed_and_encode_of_decodeWord {w : Word} {j : Instr} (h : decodeWord w = .ok j) :
    j.WellFormed ∧ encode j = w := by
  unfold decodeWord at h
  split at h
  case h_1 hop | h_4 hop | h_5 hop | h_11 hop | h_16 hop =>
    obtain ⟨_, _, _, rfl, rfl⟩ | ⟨_, _, _, rfl, rfl⟩ := (decodeAlu_ok_iff hop).1 h <;> exact ⟨rfl, rfl⟩
  case h_2 hop =>
    obtain ⟨_, _, rfl, rfl⟩ | ⟨_, _, rfl, rfl⟩ | ⟨_, _, rfl, rfl⟩ := (decodeCopy_ok_iff hop).1 h <;> exact ⟨rfl, rfl⟩
  case h_3 hop =>
    obtain ⟨rfl, rfl⟩ | ⟨rfl, rfl⟩ := (decodeRet_ok_iff hop).1 h <;> exact ⟨rfl, rfl⟩
  case h_6 hop =>
    obtain ⟨_, rfl, rfl⟩ | ⟨_, rfl, rfl⟩ := (decodeSssp_ok_iff hop).1 h <;> exact ⟨rfl, rfl⟩
  case h_7 hop =>
    obtain ⟨_, rfl, rfl⟩ | ⟨_, rfl, rfl⟩ | ⟨_, _, rfl, rfl⟩ | ⟨_, rfl, rfl⟩ := (decodeCall_ok_iff hop).1 h <;>
      exact ⟨rfl, rfl⟩
  case h_8 hop | h_9 hop | h_10 hop =>
    obtain ⟨_, _, rfl, rfl⟩ | ⟨_, _, rfl, rfl⟩ | ⟨_, _, _, rfl, rfl⟩ := (decodeLoad_ok_iff hop).1 h <;>
      exact ⟨rfl, rfl⟩
  case h_12 hop =>
    obtain ⟨_, _, rfl, rfl⟩ | ⟨_, _, rfl, rfl⟩ | ⟨_, _, rfl, rfl⟩ | ⟨_, _, rfl, rfl⟩ := (decodeIo_ok_iff hop).1 h <;>
      exact ⟨rfl, rfl⟩
  case h_13 hop =>
    obtain ⟨_, _, _, rfl, rfl⟩ | ⟨_, _, _, rfl, rfl⟩ | ⟨_, _, _, rfl, rfl⟩ | ⟨_, _, _, rfl, rfl⟩ |
      ⟨_, _, _, rfl, rfl⟩ | ⟨_, _, _, rfl, rfl⟩ := (decodeMul_ok_iff hop).1 h <;> exact ⟨rfl, rfl⟩
  case h_14 hop =>
    obtain ⟨_, _, _, rfl, rfl⟩ | ⟨_, _, _, rfl, rfl⟩ | ⟨_, _, _, rfl, rfl⟩ | ⟨_, _, _, rfl, rfl⟩ |
      ⟨_, _, _, rfl, rfl⟩ | ⟨_, _, _, rfl, rfl⟩ := (decodeShift_ok_iff hop).1 h <;> exact ⟨rfl, rfl⟩
  case h_15 hop =>
    obtain ⟨rfl, rfl⟩ := (whenZero_halt_ok_iff hop).1 h
    exact ⟨rfl, rfl⟩
  case h_17 hop | h_19 hop =>
    obtain ⟨_, _, rfl, rfl⟩ := (decodeUnary_ok_iff hop).1 h
    exact ⟨rfl, rfl⟩
  case h_18 hop =>
    obtain ⟨_, _, _, _, rfl, hc, rfl⟩ | ⟨_, _, _, _, rfl, hc, rfl⟩ | ⟨_, _, _, _, _, rfl, hc, rfl⟩ | ⟨_, rfl, rfl⟩ |
      ⟨_, rfl, rfl⟩ | ⟨_, _, rfl, rfl⟩ := (decodeJump_ok_iff hop).1 h
    · exact ⟨hc, rfl⟩
    · exact ⟨hc, rfl⟩
    · exact ⟨hc, rfl⟩
    all_goals exact ⟨rfl, rfl⟩
  case h_20 hop =>
    obtain ⟨_, _, rfl, rfl⟩ | ⟨_, _, rfl, rfl⟩ := (decodeCmp_ok_iff hop).1 h <;> exact ⟨rfl, rfl⟩
  case h_21 hop | h_22 hop | h_23 hop =>
    obtain ⟨_, _, rfl, rfl⟩ | ⟨_, _, rfl, rfl⟩ | ⟨_, _, _, rfl, rfl⟩ := (decodeStore_ok_iff hop).1 h <;>
      exact ⟨rfl, rfl⟩
  case h_24 hop =>
    obtain ⟨_, rfl, rfl⟩ | ⟨_, rfl, rfl⟩ | ⟨_, rfl, rfl⟩ | ⟨_, rfl, rfl⟩ | ⟨_, rfl, rfl⟩ | ⟨_, rfl, rfl⟩ |
      ⟨_, rfl, rfl⟩ | ⟨_, rfl, rfl⟩ := (decodeStack_ok_iff hop).1 h <;> exact ⟨rfl, rfl⟩
  case h_25 => cases h

/-- The word of a well-formed instruction decodes to it: its opcode selects the decoder of its own format. -/
theorem decodeWord_encode {i : Instr} (hwf : i.WellFormed) : decodeWord (encode i) = .ok i := by
  have hop : field (encode i) 27 5 = opcodeOf i := opcodeField i
  unfold decodeWord
  rw [hop]
  cases i <;> simp only [opcodeOf] at hop ⊢
  case addR | addI | subR | subI | andR | andI | orR | orI | xorR | xorI =>
    exact (decodeAlu_ok_iff hop).2 (by simp [encode])
  case cmpR | cmpI => exact (decodeCmp_ok_iff hop).2 (by simp)
  case mulbi | mulsi | mulwi | mulbu | mulsu | mulwu => exact (decodeMul_ok_iff hop).2 (by simp)
  case shflR | shflI | shfrzR | shfrzI | shfraR | shfraI => exact (decodeShift_ok_iff hop).2 (by simp)
  case neg | not => exact (decodeUnary_ok_iff hop).2 (by simp [encode])
  case jcA => exact (decodeJump_ok_iff hop).2 (.inl ⟨_, _, _, _, rfl, hwf, rfl⟩)
  case jcR => exact (decodeJump_ok_iff hop).2 (.inr (.inl ⟨_, _, _, _, rfl, hwf, rfl⟩))
  case jcX => exact (decodeJump_ok_iff hop).2 (.inr (.inr (.inl ⟨_, _, _, _, _, rfl, hwf, rfl⟩)))
  case jmpA | jmpR | jmpX => exact (decodeJump_ok_iff hop).2 (by simp)
  case callA | callR | callX | scl => exact (decodeCall_ok_iff hop).2 (by simp)
  case ret | reti => exact (decodeRet_ok_iff hop).2 (by simp)
  case ldbA | ldbR | ldbX | ldsA | ldsR | ldsX | ldwA | ldwR | ldwX =>
    exact (decodeLoad_ok_iff hop).2 (by simp [encode])
  case stbA | stbR | stbX | stsA | stsR | stsX | stwA | stwR | stwX =>
    exact (decodeStore_ok_iff hop).2 (by simp [encode])
  case cpy | cpyi | cpyu => exact (decodeCopy_ok_iff hop).2 (by simp)
  case pushi | pushu | pushb | pushs | pushw | popb | pops | popw => exact (decodeStack_ok_iff hop).2 (by simp)
  case inR | inI | outR | outI => exact (decodeIo_ok_iff hop).2 (by simp)
  case ssspA | ssspR => exact (decodeSssp_ok_iff hop).2 (by simp)
  case halt => exact (whenZero_halt_ok_iff hop).2 ⟨rfl, rfl⟩

/-- Settles O1: the four bytes of a word decode as the word, and the word by `decodeWord_encode`. -/
theorem decodeInvertsEncode : Obligations.DecodeInvertsEncode := by
  intro i hwf
  have hword : decodeWord (encode i) = .ok i := decodeWord_encode hwf
  refine ⟨hword, fun rest => ?_⟩
  rw [encodeBytes, decode_bytesOfWord, hword]
  rfl

/-- Settles O2, by the decoder of the word's opcode. -/
theorem encodeInvertsDecode : Obligations.EncodeInvertsDecode :=
  fun _ _ => wellFormed_and_encode_of_decodeWord

/-! ## The selector values R97 marks not assigned -/

section Unassigned
variable {w : Word}

/-- A multiplication of size 00, of either signedness (bit 26), is no instruction. -/
theorem decodeMul_unassigned (h : field w 24 2 = 0b00#2) : decodeMul w = .error .unassignedSelector := by
  have hsize : field w 24 3 = field w 26 1 ++ 0b00#2 := h ▸ field_append w 24 1 2
  unfold decodeMul
  rw [hsize]
  obtain hi | hi := BitVec.eq_zero_or_eq_one (field w 26 1) <;> rw [hi] <;> rfl

/-- CALL has no mode 11. -/
theorem decodeCall_unassigned (hbit : field w 26 1 = 0b0#1) (hmode : field w 20 2 = 0b11#2) :
    decodeCall w = .error .unassignedSelector := by
  have hcall : bit w 26 = false := BitVec.ofBool_eq_iff_eq.1 ((field_one_eq w 26).symm.trans hbit)
  simp [decodeCall, hcall, hmode]

/-- A load has no mode 11. -/
theorem decodeLoad_unassigned {a : Reg → Addr → Instr} {r : Reg → Reg → Instr} {x : Reg → Reg → Reg → Instr}
    (h : field w 20 2 = 0b11#2) : decodeLoad a r x w = .error .unassignedSelector := by
  simp [decodeLoad, h]

/-- A store has no mode 11. -/
theorem decodeStore_unassigned {a : Addr → Reg → Instr} {r : Reg → Reg → Instr} {x : Reg → Reg → Reg → Instr}
    (h : field w 25 2 = 0b11#2) : decodeStore a r x w = .error .unassignedSelector := by
  simp [decodeStore, h]

end Unassigned

/-- Settles O3: the opcodes line by line of R97, then each selector by the decoder of its format. -/
theorem unassignedWordsRejected : Obligations.UnassignedWordsRejected := by
  intro w
  refine ⟨fun hop => ?_, fun hop h => ?_, fun hop h => ?_, fun hop h => ?_, fun hop h => ?_, fun hop h => ?_,
    fun hop hbit h => ?_, fun hop h => ?_⟩
  · simp only [List.mem_cons, List.not_mem_nil, or_false] at hop
    rcases hop with hop | hop | hop | hop | hop | hop | hop | hop <;> simp [decodeWord, hop]
  · simp [decodeWord, hop, decodeCopy, h]
  · simp [decodeWord, hop, decodeMul_unassigned h]
  · simp [decodeWord, hop, decodeShift, h]
  · simp [decodeWord, hop, decodeStack, h]
  · simp only [List.mem_cons, List.not_mem_nil, or_false] at hop
    rcases hop with hop | hop | hop | hop <;> simp [decodeWord, hop, decodeJump, decodeLoad_unassigned, h]
  · simp [decodeWord, hop, decodeCall_unassigned hbit h]
  · simp only [List.mem_cons, List.not_mem_nil, or_false] at hop
    rcases hop with hop | hop | hop <;> simp [decodeWord, hop, decodeStore_unassigned, h]

end Sys2Proof.Laws
end

section
/-! The words of the rules, which write an instruction as fields shifted to their places and joined by OR, are the
encoder's, which concatenates the fields of a format (30_encoding.md R82 to R84). -/

namespace Sys2Proof.Laws
open Machine

/-- Joined fields in their place are each of them in its own place. -/
theorem place_append {n k : Nat} (x : BitVec n) (y : BitVec k) (lo : Nat) :
    place (x ++ y) lo = place x (k + lo) ||| place y lo := by
  apply BitVec.eq_of_getLsbD_eq
  intro i hi
  simp only [place, BitVec.getLsbD_or, BitVec.getLsbD_shiftLeft, BitVec.getLsbD_setWidth, BitVec.getLsbD_append]
  by_cases hlo : i < lo
  · have hklo : i < k + lo := by omega
    simp [hlo, hklo]
  · by_cases hk : i - lo < k
    · have hklo : i < k + lo := by omega
      simp [hlo, hk, hklo]
    · have hklo : ¬ i < k + lo := by omega
      have hsub : i - lo - k = i - (k + lo) := by omega
      have hy : y.getLsbD (i - lo) = false := BitVec.getLsbD_of_ge y _ (by omega)
      have hlt : i - lo < 32 := by omega
      have hlt' : i - (k + lo) < 32 := by omega
      simp [hlo, hk, hklo, hsub, hy, hi, hlt, hlt']

/-- A field of zeros adds nothing to a word. -/
@[simp] theorem place_zero (n lo : Nat) : place 0#n lo = 0#32 := by simp [place]

/-- Packed bits are a word that starts at bit 0. -/
theorem pack_eq_place {n : Nat} (x : BitVec n) (h : n = 32) : pack x h = place x 0 := by
  subst h
  simp [pack, place]

/-- The fields of a word may be joined in another order. -/
theorem or_right_comm (x y z : Word) : x ||| y ||| z = x ||| z ||| y := by
  rw [BitVec.or_assoc, BitVec.or_comm y z, BitVec.or_assoc]

/-- Format ALU-R (R82), under any opcode. -/
theorem pack_aluR (op : BitVec 5) (dr sr1 sr2 : Reg) :
    pack (op ++ dr ++ sr1 ++ 0b0#1 ++ 0#11 ++ sr2) = place op 27 ||| place dr 22 ||| place sr1 17 ||| place sr2 0 := by
  simp only [pack_eq_place, place_append, place_zero, BitVec.or_zero]

/-- Format ALU-I (R82), under any opcode and selector. The rules write the two of them as one constant. -/
theorem pack_aluI (op : BitVec 5) (sel : BitVec 1) (dr sr1 : Reg) (imm16 : BitVec 16) :
    pack (op ++ dr ++ sr1 ++ sel ++ imm16) =
      place op 27 ||| place sel 16 ||| place dr 22 ||| place sr1 17 ||| place imm16 0 := by
  have hplaces : pack (op ++ dr ++ sr1 ++ sel ++ imm16) =
      place op 27 ||| place dr 22 ||| place sr1 17 ||| place sel 16 ||| place imm16 0 := by
    simp only [pack_eq_place, place_append]
  rw [hplaces, or_right_comm _ (place sr1 17), or_right_comm _ (place dr 22)]

/-- Format MUL (R83), under any opcode and selector. -/
theorem pack_mul (op : BitVec 5) (row : BitVec 3) (dr sr1 sr2 : Reg) :
    pack (op ++ row ++ 0#9 ++ dr ++ sr1 ++ sr2) =
      place op 27 ||| place row 24 ||| place dr 10 ||| place sr1 5 ||| place sr2 0 := by
  simp only [pack_eq_place, place_append, place_zero, BitVec.or_zero]

/-- Format UN (R84), under any opcode. -/
theorem pack_unary (op : BitVec 5) (dr sr : Reg) :
    pack (op ++ 0#17 ++ dr ++ sr) = place op 27 ||| place dr 5 ||| place sr 0 := by
  simp only [pack_eq_place, place_append, place_zero, BitVec.or_zero]

/-- The word of a well-formed instruction is what the encoder writes. -/
theorem isWord_of_encode {w : Word} {i : Instr} (hwf : i.WellFormed) (h : encode i = w) : isWord w i :=
  h ▸ decodeWord_encode hwf

end Sys2Proof.Laws
end

section
/-! The obligations of 40_arithmetic.md: the ends the arithmetic instructions share and what each changes, the exactness
of a product of double width, and the value of each rule as the integer it is modulo 2^32. -/

namespace Sys2Proof.Machine
open Laws

/-! ## The ends of an instruction that writes registers and flags -/

/-- `SetFlags` of a value keeps bits 31:3 of `ms` (10_state.md R31). -/
theorem setsFlags_of_ms_eq {n : Nat} {x : BitVec n} {s t : State} (h : t.ms = withFlagsOf x s.ms) :
    setsFlags x s t := by
  refine ⟨h, fun k hk => ?_⟩
  have h0 : k ≠ 0 := by omega
  have h1 : k ≠ 1 := by omega
  have h2 : k ≠ 2 := by omega
  rw [h, getLsbD_withFlagsOf, if_neg h0, if_neg h1, if_neg h2]

/-- What is kept where only the registers and `ms` change. -/
theorem frame_of_eq {s t : State} (h : t = { s with regs := t.regs, ms := t.ms }) :
    t.pc = s.pc ∧ keepsMemory s t ∧ keepsSystem s t ∧ keepsDevices s t := by
  rw [h]
  exact ⟨rfl, fun _ => rfl, ⟨rfl, rfl, rfl, rfl, rfl⟩, rfl, rfl, rfl, rfl⟩

/-- The end of an instruction with a 32-bit result. -/
theorem writesResult_writeResult (s : State) (dr : Reg) (v : Word) : writesResult s (s.writeResult dr v) dr v := by
  refine ⟨by simp [State.reg_writeResult], fun r hr => ?_, setsFlags_of_ms_eq rfl, frame_of_eq rfl⟩
  rw [State.reg_writeResult, if_neg (List.ne_of_not_mem_cons hr)]

/-- The low half of a word whose low half is replaced is the new one. -/
theorem low_withLowShort (v : Word) (h : Short) : (withLowShort v h).extractLsb' 0 16 = h := by
  rw [withLowShort, extract_pack, BitVec.extractLsb'_append_eq_right]

/-- The high half of a word whose low half is replaced is as it was. -/
theorem high_withLowShort (v : Word) (h : Short) :
    (withLowShort v h).extractLsb' 16 16 = v.extractLsb' 16 16 := by
  rw [withLowShort, extract_pack, BitVec.extractLsb'_append_eq_left]

/-- The end of a byte multiply. -/
theorem writesProduct16_writeProduct16 (s : State) (dr : Reg) (p : BitVec 16) :
    writesProduct16 s (s.writeProduct16 dr p) dr p := by
  have hdr : (s.writeProduct16 dr p).reg dr = withLowShort (s.reg dr) p := State.reg_setReg_same s dr _
  refine ⟨?_, ?_, fun r hr => State.reg_setReg_ne s _ (List.ne_of_not_mem_cons hr), setsFlags_of_ms_eq rfl,
    frame_of_eq rfl⟩
  · rw [hdr, low_withLowShort]
  · rw [hdr, high_withLowShort]

/-- The two registers of a doubleword differ: modulo 8 they are neighbours (40_arithmetic.md R118). -/
theorem highReg_ne (dr : Reg) : highReg dr ≠ dr := by
  intro h
  have hnat := congrArg BitVec.toNat h
  rw [highReg, BitVec.toNat_ofNat] at hnat
  omega

/-- The end of a word multiply. The high word is written last, to another register than the low word. -/
theorem writesProduct64_writeProduct64 (s : State) (dr : Reg) (p : BitVec 64) :
    writesProduct64 s (s.writeProduct64 dr p) dr p := by
  have hreg (r : Reg) : (s.writeProduct64 dr p).reg r =
      ((s.setReg dr (p.extractLsb' 0 32)).setReg (highReg dr) (p.extractLsb' 32 32)).reg r := rfl
  refine ⟨?_, ?_, fun r hr => ?_, setsFlags_of_ms_eq rfl, frame_of_eq rfl⟩
  · rw [hreg, State.reg_setReg_ne _ _ (highReg_ne dr).symm, State.reg_setReg_same]
  · rw [hreg, State.reg_setReg_same]
  · obtain ⟨hlow, hhigh⟩ : r ≠ dr ∧ r ≠ highReg dr := by simpa using hr
    rw [hreg, State.reg_setReg_ne _ _ hhigh, State.reg_setReg_ne _ _ hlow]

/-- An instruction whose meaning ends in a 32-bit result gives that result. -/
theorem givesResult_of_exec {i : Instr} {dr : Reg} {v : State → Word}
    (h : ∀ s, exec i s = .next (s.writeResult dr (v s))) : givesResult i dr v :=
  fun s => ⟨_, h s, writesResult_writeResult s dr (v s)⟩

/-! ## Values as integers -/

/-- The sum is that of the unsigned values modulo 2^32. -/
theorem add_eq_ofNat (x y : Word) : x + y = BitVec.ofNat 32 (x.toNat + y.toNat) := by
  simp [BitVec.ofNat_add]

/-- The sum with a sign-extended immediate is that of the signed values modulo 2^32. -/
theorem add_signed16_eq_ofInt (x : Word) (imm : BitVec 16) :
    x + signed16 imm = BitVec.ofInt 32 (x.toInt + imm.toInt) := by
  rw [BitVec.ofInt_add, BitVec.ofInt_toInt]
  rfl

/-- A difference of integers modulo 2^32. -/
theorem ofInt_sub_eq (i j : Int) : BitVec.ofInt 32 (i - j) = BitVec.ofInt 32 i - BitVec.ofInt 32 j := by
  rw [Int.sub_eq_add_neg, BitVec.ofInt_add, BitVec.ofInt_neg, BitVec.sub_eq_add_neg]

/-- The difference is that of the signed values modulo 2^32. -/
theorem sub_eq_ofInt (x y : Word) : x - y = BitVec.ofInt 32 (x.toInt - y.toInt) := by
  rw [ofInt_sub_eq, BitVec.ofInt_toInt, BitVec.ofInt_toInt]

/-- The difference with a sign-extended immediate is that of the signed values modulo 2^32. -/
theorem sub_signed16_eq_ofInt (x : Word) (imm : BitVec 16) :
    x - signed16 imm = BitVec.ofInt 32 (x.toInt - imm.toInt) := by
  rw [ofInt_sub_eq, BitVec.ofInt_toInt]
  rfl

/-- The two's complement is the negated signed value modulo 2^32. -/
theorem zero_sub_eq_ofInt (x : Word) : 0#32 - x = BitVec.ofInt 32 (-x.toInt) := by
  rw [BitVec.zero_sub, BitVec.ofInt_neg, BitVec.ofInt_toInt]

/-- A signed product fits into double the width (00_scope.md R18). -/
theorem toInt_signedProduct {n : Nat} (hn : 0 < n) (a b : BitVec n) :
    (signedProduct (n * 2) a b).toInt = a.toInt * b.toInt := by
  have hle : a.toInt * b.toInt ≤ 2 ^ (n * 2 - 2) := BitVec.toInt_mul_toInt_le
  have hge : -2 ^ (n * 2 - 2) ≤ a.toInt * b.toInt := BitVec.le_toInt_mul_toInt
  have hlt : (2 : Int) ^ (n * 2 - 2) < 2 ^ (n * 2 - 1) := pow_lt_pow_right₀ (by decide) (by omega)
  exact BitVec.toInt_ofInt_eq_self (by omega) (by omega) (by omega)

/-- An unsigned product fits into double the width (00_scope.md R18). -/
theorem toNat_unsignedProduct {n : Nat} (a b : BitVec n) :
    (unsignedProduct (n * 2) a b).toNat = a.toNat * b.toNat := by
  rw [unsignedProduct, BitVec.toNat_ofNat, Nat.mod_eq_of_lt BitVec.toNat_mul_toNat_lt]

/-! ## The obligations -/

/-- Settles O6, form by form: its word by its format, its value by the law of its operation. -/
theorem addAndSubtract : Obligations.AddAndSubtract := by
  intro dr sr1 sr2 imm16
  refine ⟨isWord_of_encode rfl (pack_aluR 0b00100#5 dr sr1 sr2), givesResult_of_exec fun s => ?_,
    isWord_of_encode rfl (pack_aluI 0b00100#5 0b1#1 dr sr1 imm16), givesResult_of_exec fun s => ?_,
    isWord_of_encode rfl (pack_aluR 0b00000#5 dr sr1 sr2), givesResult_of_exec fun s => ?_,
    isWord_of_encode rfl (pack_aluI 0b00000#5 0b1#1 dr sr1 imm16), givesResult_of_exec fun s => ?_⟩
  · rw [← add_eq_ofNat]; rfl
  · rw [← add_signed16_eq_ofInt]; rfl
  · rw [← sub_eq_ofInt]; rfl
  · rw [← sub_signed16_eq_ofInt]; rfl

/-- Settles O7: 16 bits hold any product of two bytes. -/
theorem byteMultiplies : Obligations.ByteMultiplies := by
  intro dr sr1 sr2
  exact ⟨isWord_of_encode rfl (pack_mul 0b01111#5 0b001#3 dr sr1 sr2),
    fun s => ⟨_, _, toInt_signedProduct (by decide) _ _, rfl, writesProduct16_writeProduct16 s dr _⟩,
    isWord_of_encode rfl (pack_mul 0b01111#5 0b101#3 dr sr1 sr2),
    fun s => ⟨_, _, toNat_unsignedProduct _ _, rfl, writesProduct16_writeProduct16 s dr _⟩⟩

/-- Settles O8: 32 bits hold any product of two shorts. -/
theorem shortMultiplies : Obligations.ShortMultiplies := by
  intro dr sr1 sr2
  exact ⟨isWord_of_encode rfl (pack_mul 0b01111#5 0b010#3 dr sr1 sr2),
    fun s => ⟨_, _, toInt_signedProduct (by decide) _ _, rfl, writesResult_writeResult s dr _⟩,
    isWord_of_encode rfl (pack_mul 0b01111#5 0b110#3 dr sr1 sr2),
    fun s => ⟨_, _, toNat_unsignedProduct _ _, rfl, writesResult_writeResult s dr _⟩⟩

/-- Settles O9: 64 bits hold any product of two words, and the two registers that take them differ. -/
theorem wordMultiplies : Obligations.WordMultiplies := by
  intro dr sr1 sr2
  exact ⟨highReg_ne dr, isWord_of_encode rfl (pack_mul 0b01111#5 0b011#3 dr sr1 sr2),
    fun s => ⟨_, _, toInt_signedProduct (by decide) _ _, rfl, writesProduct64_writeProduct64 s dr _⟩,
    isWord_of_encode rfl (pack_mul 0b01111#5 0b111#3 dr sr1 sr2),
    fun s => ⟨_, _, toNat_unsignedProduct _ _, rfl, writesProduct64_writeProduct64 s dr _⟩⟩

/-- Settles O10. The words of CMP are those of the ALU formats with a Reserved field in the place of `DR` (R82). -/
theorem negateAndCompare : Obligations.NegateAndCompare := by
  intro dr sr sr1 sr2 imm16
  refine ⟨isWord_of_encode rfl (pack_unary 0b11000#5 dr sr), givesResult_of_exec fun s => ?_,
    isWord_of_encode rfl (pack_aluR 0b11011#5 0#5 sr1 sr2),
    fun s => ⟨_, _, sub_eq_ofInt _ _, rfl, setsFlags_of_ms_eq rfl, rfl⟩,
    isWord_of_encode rfl (pack_aluI 0b11011#5 0b1#1 0#5 sr1 imm16),
    fun s => ⟨_, _, sub_signed16_eq_ofInt _ _, rfl, setsFlags_of_ms_eq rfl, rfl⟩⟩
  rw [← zero_sub_eq_ofInt]; rfl

end Sys2Proof.Machine
end

section
/-! The obligations of 41_logic_shift.md: the words of the shifts, and the value of each rule as the arithmetic it
stands for. -/

namespace Sys2Proof.Machine
open Laws

/-! ## The words -/

/-- Formats SHF-R and SHF-I (30_encoding.md R85), under any opcode and selectors; the last field is the register or the
immediate count. The rules write opcode and selectors as one constant. -/
theorem pack_shift (op : BitVec 5) (row : BitVec 2) (sel : BitVec 1) (dr sr count : BitVec 5) :
    pack (op ++ row ++ 0#9 ++ dr ++ sr ++ sel ++ count) =
      place op 27 ||| place row 25 ||| place sel 5 ||| place dr 11 ||| place sr 6 ||| place count 0 := by
  have hplaces : pack (op ++ row ++ 0#9 ++ dr ++ sr ++ sel ++ count) =
      place op 27 ||| place row 25 ||| place dr 11 ||| place sr 6 ||| place sel 5 ||| place count 0 := by
    simp only [pack_eq_place, place_append, place_zero, BitVec.or_zero]
  rw [hplaces, or_right_comm _ (place sr 6), or_right_comm _ (place dr 11)]

/-! ## Values as arithmetic -/

/-- The complement is the difference from the word of ones (41_logic_shift.md R135). -/
theorem not_eq_ones_sub (x : Word) : ~~~ x = 0xffffffff#32 - x := by
  have hones : 0xffffffff#32 = BitVec.allOnes 32 := by decide
  rw [hones, BitVec.allOnes_sub_eq_not]

/-- A left shift multiplies modulo 2^32 and leaves no bit once the count is the width (41_logic_shift.md R139). -/
theorem shiftLeft_eq_ofNat (x : Word) (c : Nat) :
    shiftLeft x c = if c < 32 then BitVec.ofNat 32 (x.toNat * 2 ^ c) else 0#32 := by
  rw [shiftLeft, ← Nat.shiftLeft_eq]
  rfl

/-- An immediate count is below the width (41_logic_shift.md R140). -/
theorem shiftLeft_imm5 (x : Word) (imm5 : BitVec 5) :
    shiftLeft x imm5.toNat = BitVec.ofNat 32 (x.toNat * 2 ^ imm5.toNat) := by
  rw [shiftLeft_eq_ofNat, if_pos imm5.isLt]

/-- A logical right shift is the floor division of the unsigned value and leaves no bit once the count is the width
(41_logic_shift.md R141). -/
theorem shiftRight_eq_ofNat (x : Word) (c : Nat) :
    shiftRight x c = if c < 32 then BitVec.ofNat 32 (x.toNat / 2 ^ c) else 0#32 := by
  have hdiv : BitVec.ofNat 32 (x.toNat / 2 ^ c) = x >>> c := by
    rw [← Nat.shiftRight_eq_div_pow, ← BitVec.toNat_ushiftRight, BitVec.ofNat_toNat, BitVec.setWidth_eq]
  rw [shiftRight, hdiv]

/-- An immediate count is below the width (41_logic_shift.md R142). -/
theorem shiftRight_imm5 (x : Word) (imm5 : BitVec 5) :
    shiftRight x imm5.toNat = BitVec.ofNat 32 (x.toNat / 2 ^ imm5.toNat) := by
  rw [shiftRight_eq_ofNat, if_pos imm5.isLt]

/-- An arithmetic right shift is the floor division of the signed value, by 2^32 for every larger count
(41_logic_shift.md R143). -/
theorem shiftRightArith_eq_ofInt (x : Word) (c : Nat) :
    shiftRightArith x c = BitVec.ofInt 32 (x.toInt / 2 ^ min c 32) := by
  rw [shiftRightArith, BitVec.sshiftRight, Int.shiftRight_eq_div_pow]
  norm_cast

/-- An immediate count is below the width (41_logic_shift.md R144). -/
theorem shiftRightArith_imm5 (x : Word) (imm5 : BitVec 5) :
    shiftRightArith x imm5.toNat = BitVec.ofInt 32 (x.toInt / 2 ^ imm5.toNat) := by
  rw [shiftRightArith_eq_ofInt, Nat.min_eq_left imm5.isLt.le]

/-! ## The obligations -/

/-- Settles O11, form by form: its word by its format, its value as the rule writes it. -/
theorem logicIsBitwise : Obligations.LogicIsBitwise := by
  intro dr sr sr1 sr2 imm16
  exact ⟨isWord_of_encode rfl (pack_aluR 0b00101#5 dr sr1 sr2), givesResult_of_exec fun _ => rfl,
    isWord_of_encode rfl (pack_aluI 0b00101#5 0b1#1 dr sr1 imm16), givesResult_of_exec fun _ => rfl,
    isWord_of_encode rfl (pack_aluR 0b01101#5 dr sr1 sr2), givesResult_of_exec fun _ => rfl,
    isWord_of_encode rfl (pack_aluI 0b01101#5 0b1#1 dr sr1 imm16), givesResult_of_exec fun _ => rfl,
    isWord_of_encode rfl (pack_unary 0b10110#5 dr sr),
    givesResult_of_exec fun s => not_eq_ones_sub (s.reg sr) ▸ rfl,
    isWord_of_encode rfl (pack_aluR 0b10101#5 dr sr1 sr2), givesResult_of_exec fun _ => rfl,
    isWord_of_encode rfl (pack_aluI 0b10101#5 0b1#1 dr sr1 imm16), givesResult_of_exec fun _ => rfl⟩

/-- Settles O12, form by form: its word by its format, its value by the law of its shift. -/
theorem shiftsByWholeCount : Obligations.ShiftsByWholeCount := by
  intro dr sr1 sr2 imm5
  refine ⟨isWord_of_encode rfl (pack_shift 0b10000#5 0b00#2 0b0#1 dr sr1 sr2), givesResult_of_exec fun s => ?_,
    isWord_of_encode rfl (pack_shift 0b10000#5 0b00#2 0b1#1 dr sr1 imm5), givesResult_of_exec fun s => ?_,
    isWord_of_encode rfl (pack_shift 0b10000#5 0b10#2 0b0#1 dr sr1 sr2), givesResult_of_exec fun s => ?_,
    isWord_of_encode rfl (pack_shift 0b10000#5 0b10#2 0b1#1 dr sr1 imm5), givesResult_of_exec fun s => ?_,
    isWord_of_encode rfl (pack_shift 0b10000#5 0b11#2 0b0#1 dr sr1 sr2), givesResult_of_exec fun s => ?_,
    isWord_of_encode rfl (pack_shift 0b10000#5 0b11#2 0b1#1 dr sr1 imm5), givesResult_of_exec fun s => ?_⟩
  · rw [← shiftLeft_eq_ofNat]; rfl
  · rw [← shiftLeft_imm5]; rfl
  · rw [← shiftRight_eq_ofNat]; rfl
  · rw [← shiftRight_imm5]; rfl
  · rw [← shiftRightArith_eq_ofInt]; rfl
  · rw [← shiftRightArith_imm5]; rfl

end Sys2Proof.Machine
end

section
/-! The obligations of 42_control.md: the words of the jumps and calls, the checks and the stack operations in the words
of the statements, and what a transfer, a call and a return make of them. -/

namespace Sys2Proof.Machine
open Laws

/-! ## The words -/

/-- The rules of JC write the mode, at 21:20, into the constant that holds the opcode; the formats have the test bits
between the two (30_encoding.md R86). -/
theorem or_mode_first (op n p z mode : Word) : op ||| n ||| p ||| z ||| mode = op ||| mode ||| n ||| p ||| z := by
  rw [or_right_comm _ z, or_right_comm _ p, or_right_comm _ n]

/-- The words of JC (R150 to R152). -/
theorem isWord_jc {n p z : Bool} (hc : (n && p && z) = false) (addr20 : Addr) (sr sr1 sr2 : Reg) :
    isWord (0xb8000000#32 ||| placeBit n 26 ||| placeBit p 25 ||| placeBit z 24 ||| place addr20 0)
        (.jcA n p z addr20) ∧
      isWord (0xb8100000#32 ||| placeBit n 26 ||| placeBit p 25 ||| placeBit z 24 ||| place sr 0) (.jcR n p z sr) ∧
      isWord (0xb8200000#32 ||| placeBit n 26 ||| placeBit p 25 ||| placeBit z 24 ||| place sr1 5 ||| place sr2 0)
        (.jcX n p z sr1 sr2) := by
  have hwf : condOk n p z = true := by rw [condOk, hc]; rfl
  refine ⟨isWord_of_encode hwf ?_, isWord_of_encode hwf ?_, isWord_of_encode hwf ?_⟩ <;>
    simp only [encode, pack_eq_place, place_append, place_zero, BitVec.or_zero]
  · rfl
  · rw [or_mode_first _ _ _ _ (place 0b01#2 _)]; rfl
  · rw [or_mode_first _ _ _ _ (place 0b10#2 _)]; rfl

/-- The words of JMP (R154 to R156). -/
theorem isWord_jmp (addr20 : Addr) (sr sr1 sr2 : Reg) :
    isWord (0xbf000000#32 ||| place addr20 0) (.jmpA addr20) ∧ isWord (0xbf100000#32 ||| place sr 0) (.jmpR sr) ∧
      isWord (0xbf200000#32 ||| place sr1 5 ||| place sr2 0) (.jmpX sr1 sr2) := by
  refine ⟨isWord_of_encode rfl ?_, isWord_of_encode rfl ?_, isWord_of_encode rfl ?_⟩ <;>
    simp only [encode, pack_eq_place, place_append, place_zero, BitVec.or_zero] <;> rfl

/-- The words of CALL (R157 to R159). -/
theorem isWord_call (addr20 : Addr) (sr sr1 sr2 : Reg) :
    isWord (0x40000000#32 ||| place addr20 0) (.callA addr20) ∧ isWord (0x40100000#32 ||| place sr 0) (.callR sr) ∧
      isWord (0x40200000#32 ||| place sr1 5 ||| place sr2 0) (.callX sr1 sr2) := by
  refine ⟨isWord_of_encode rfl ?_, isWord_of_encode rfl ?_, isWord_of_encode rfl ?_⟩ <;>
    simp only [encode, pack_eq_place, place_append, place_zero, BitVec.or_zero] <;> rfl

/-! ## The operations in the words of the statements -/

theorem aligned_eq_true_iff (a : Addr) (n : Nat) : aligned a n = true ↔ a.toNat % n = 0 := by
  simp [aligned]

theorem aligned_eq_false_iff (a : Addr) (n : Nat) : aligned a n = false ↔ a.toNat % n ≠ 0 := by
  simp [aligned]

theorem mayAccess_eq_true_iff (s : State) (a : Addr) : s.mayAccess a = true ↔ accessible s a := by
  simp [State.mayAccess, State.supervisor, modeIndicator, accessible, protectedLimit]

theorem mayAccess_eq_false_iff (s : State) (a : Addr) : s.mayAccess a = false ↔ ¬ accessible s a := by
  rw [← mayAccess_eq_true_iff, Bool.not_eq_true]

theorem addrOf_eq_low20 (v : Word) : addrOf v = low20 v := by
  simp [addrOf, low20, BitVec.setWidth_eq_extractLsb']

theorem low20_zext (a : Addr) : low20 (zext a) = a :=
  (addrOf_eq_low20 _).symm.trans (addrOf_wordOf a)

/-- Moving the stack pointer writes R15 and no other register. -/
theorem reg_movedTo (s : State) (v : Word) (r : Reg) : (movedTo s v).reg r = if r = 15#5 then v else s.reg r :=
  State.reg_setReg s stackReg r v

/-- Which accesses are allowed depends on `ms` alone. -/
theorem accessible_congr {s t : State} (h : t.ms = s.ms) (a : Addr) : accessible t a ↔ accessible s a := by
  rw [accessible, accessible, h]

/-- A performed sequence goes on from where its first part completed. -/
theorem perform_bind_ok {α : Type} {x : Act α} {f : α → Act Unit} {s t : State} {a : α} (h : x s = .ok a t) :
    perform (x >>= f) s = perform (f a) t := by
  rw [perform, Act.bind_ok h, perform]

/-! ## Transfers -/

theorem perform_transferTo_aligned {a : Addr} (h : a.toNat % 4 = 0) (s : State) :
    perform (transferTo a) s = .next { s with pc := a } :=
  perform_ok (by rw [transferTo_eq, (aligned_eq_true_iff a 4).2 h]; rfl)

theorem perform_transferTo_misaligned {a : Addr} (h : a.toNat % 4 ≠ 0) (s : State) :
    perform (transferTo a) s = .next (raised s (.alignmentError a 4)) :=
  perform_error (by rw [transferTo_eq, (aligned_eq_false_iff a 4).2 h]; rfl)

/-- An instruction whose meaning is `TransferTo` transfers. -/
theorem transfers_of_exec {i : Instr} {s : State} {a : Addr} (h : exec i s = perform (transferTo a) s) :
    transfers i s a :=
  ⟨fun ha => h.trans (perform_transferTo_aligned ha s), fun ha => h.trans (perform_transferTo_misaligned ha s)⟩

/-- A conditional transfer whose condition holds is a transfer. -/
theorem transferIf_eq_transferTo {cond : Bool} (h : cond = true) (a : Addr) : transferIf cond a = transferTo a :=
  if_pos h

/-- A conditional transfer whose condition does not hold does nothing. -/
theorem perform_transferIf_false {cond : Bool} (h : cond = false) (a : Addr) (s : State) :
    perform (transferIf cond a) s = .next s := by
  subst h
  rfl

/-- JC's condition, flag by flag (R150). -/
theorem conditionHolds_iff (n p z : Bool) (ms : Word) :
    conditionHolds n p z ms = true ↔
      (n = true ∧ ms.getLsbD 2 = true) ∨ (p = true ∧ ms.getLsbD 1 = true) ∨ (z = true ∧ ms.getLsbD 0 = true) := by
  simp [conditionHolds, negativeFlag, positiveFlag, zeroFlag, or_assoc]

/-- An instruction whose meaning is a conditional transfer: where its condition holds it transfers. -/
theorem transfers_of_exec_transferIf {i : Instr} {s : State} {cond : Bool} {a : Addr} (hc : cond = true)
    (h : exec i s = perform (transferIf cond a) s) : transfers i s a :=
  transfers_of_exec (transferIf_eq_transferTo hc a ▸ h)

/-- Settles O13: each form is one conditional transfer, on the condition of R150. -/
theorem conditionalJumps : Obligations.ConditionalJumps := by
  intro n p z addr20 sr sr1 sr2
  refine ⟨fun hc => isWord_jc hc addr20 sr sr1 sr2, fun s => ⟨fun htaken => ?_, fun hnot => ?_⟩⟩
  · have hcond : conditionHolds n p z s.ms = true := (conditionHolds_iff n p z s.ms).2 htaken
    rw [← addrOf_eq_low20, ← addrOf_eq_low20]
    exact ⟨transfers_of_exec_transferIf hcond rfl, transfers_of_exec_transferIf hcond rfl,
      transfers_of_exec_transferIf hcond rfl⟩
  · have hcond : conditionHolds n p z s.ms = false := by
      rw [← Bool.not_eq_true, conditionHolds_iff]
      exact hnot
    exact ⟨perform_transferIf_false hcond _ s, perform_transferIf_false hcond _ s, perform_transferIf_false hcond _ s⟩

/-- Settles O14: each form is one transfer. -/
theorem unconditionalJumps : Obligations.UnconditionalJumps := by
  intro addr20 sr sr1 sr2
  obtain ⟨hA, hR, hX⟩ := isWord_jmp addr20 sr sr1 sr2
  refine ⟨hA, hR, hX, fun s => ?_⟩
  rw [← addrOf_eq_low20, ← addrOf_eq_low20]
  exact ⟨transfers_of_exec rfl, transfers_of_exec rfl, transfers_of_exec rfl⟩

/-! ## Calls -/

/-- The state after the push of a word that passes its checks. -/
def pushed (s : State) (v : Word) : State := (decremented s).setMem (s.mem.writeWord (low20 (pushedSp s)) v)

/-- `Push` in the words of the statements: the checked write at the decremented stack pointer, after the decrement. -/
theorem push_eq_decremented (v : Word) (s : State) :
    push v s = memWriteWord (low20 (pushedSp s)) v (decremented s) := by
  rw [push_eq, addrOf_eq_low20]
  rfl

/-- A push that passes its checks. -/
theorem push_of_mayPush {s : State} (h : mayPush s) (v : Word) : push v s = .ok () (pushed s v) := by
  obtain ⟨ha, hacc⟩ := h
  have hacc' : (decremented s).mayAccess (low20 (pushedSp s)) = true := (mayAccess_eq_true_iff _ _).2 hacc
  rw [push_eq_decremented, memWriteWord_eq, (aligned_eq_true_iff _ 4).2 ha, hacc']
  rfl

/-- A push on a misaligned stack. -/
theorem push_misaligned {s : State} (h : (low20 (pushedSp s)).toNat % 4 ≠ 0) (v : Word) :
    push v s = .error (.alignmentError (low20 (pushedSp s)) 4) (decremented s) := by
  rw [push_eq_decremented, memWriteWord_eq, (aligned_eq_false_iff _ 4).2 h]
  rfl

/-- A push into the protected address space. -/
theorem push_protected {s : State} (ha : (low20 (pushedSp s)).toNat % 4 = 0)
    (hacc : ¬ accessible s (low20 (pushedSp s))) (v : Word) :
    push v s = .error (.protectionError (low20 (pushedSp s))) (decremented s) := by
  have hacc' : (decremented s).mayAccess (low20 (pushedSp s)) = false := (mayAccess_eq_false_iff _ _).2 hacc
  rw [push_eq_decremented, memWriteWord_eq, (aligned_eq_true_iff _ 4).2 ha, hacc']
  rfl

/-- An instruction that begins with a push raises the push's errors. -/
theorem pushRaises_of_exec {i : Instr} {s : State} {v : Word} {rest : Unit → Act Unit}
    (h : exec i s = perform (push v >>= rest) s) : pushRaises i s :=
  ⟨fun ha => h.trans (perform_error (Act.bind_error (push_misaligned ha v))),
    fun ha hacc => h.trans (perform_error (Act.bind_error (push_protected ha hacc v)))⟩

/-- A word written is its four bytes, and no other byte changes. -/
theorem storesBytes_writeWord {s t : State} {a : Addr} {v : Word} (h : t.mem = s.mem.writeWord a v) :
    storesBytes s t a 4 v := by
  refine ⟨fun hm k hk => ?_, fun c hc => ?_⟩
  · rw [h, Memory.readByte_writeWord_add a v hm hk]
  · rw [h, Memory.readByte_writeWord_of_not_isWithin s.mem v hc]

/-- The push of a word, wherever `pc` then goes. -/
theorem pushesWord_pushed (s : State) (v : Word) (a : Addr) : pushesWord s { pushed s v with pc := a } v := by
  have hreg (r : Reg) : State.reg { pushed s v with pc := a } r = if r = 15#5 then pushedSp s else s.reg r :=
    reg_movedTo s (pushedSp s) r
  exact ⟨hreg 15#5, fun r hr => (hreg r).trans (if_neg (List.ne_of_not_mem_cons hr)), storesBytes_writeWord rfl, rfl,
    ⟨rfl, rfl, rfl, rfl, rfl⟩, rfl, rfl, rfl, rfl⟩

/-- An instruction whose meaning is a call, to a target formed from the registers alone, calls it. -/
theorem calls_of_exec {i : Instr} {target : State → Addr} (hexec : ∀ s, exec i s = perform (callVia target) s)
    (hregs : ∀ s v, target (pushed s v) = target (decremented s)) : calls i target := by
  intro s
  have hcall : exec i s = perform (push (zext s.pc) >>= fun _ => look target >>= transferTo) s := hexec s
  refine ⟨fun hpush => ?_, pushRaises_of_exec hcall⟩
  have hafter : exec i s = perform (transferTo (target (decremented s))) (pushed s (zext s.pc)) := by
    rw [hcall, perform_bind_ok (push_of_mayPush hpush _), perform_bind_ok (look_apply _ _), hregs]
  exact ⟨fun ha => ⟨_, hafter.trans (perform_transferTo_aligned ha _), pushesWord_pushed s _ _, rfl⟩,
    fun ha => ⟨_, hafter.trans (perform_transferTo_misaligned ha _), pushesWord_pushed s _ s.pc, rfl⟩⟩

theorem calls_callA (addr20 : Addr) : calls (.callA addr20) fun _ => addr20 :=
  calls_of_exec (fun _ => rfl) fun _ _ => rfl

theorem calls_callR (sr : Reg) : calls (.callR sr) fun s => low20 (s.reg sr) :=
  calls_of_exec (fun s => by simp only [← addrOf_eq_low20]; rfl) fun _ _ => rfl

theorem calls_callX (sr1 sr2 : Reg) : calls (.callX sr1 sr2) fun s => low20 (s.reg sr1 + s.reg sr2) :=
  calls_of_exec (fun s => by simp only [← addrOf_eq_low20]; rfl) fun _ _ => rfl

/-- Settles O15, form by form. -/
theorem subroutineCalls : Obligations.SubroutineCalls := by
  intro addr20 sr sr1 sr2
  obtain ⟨hA, hR, hX⟩ := isWord_call addr20 sr sr1 sr2
  exact ⟨hA, hR, hX, calls_callA addr20, calls_callR sr, calls_callX sr1 sr2⟩

/-! ## Returns -/

/-- `Pop` in the words of the statements. -/
theorem pop_eq_movedTo {s : State} (ha : (low20 (s.reg 15#5)).toNat % 4 = 0)
    (hacc : accessible s (low20 (s.reg 15#5))) :
    pop s = .ok (wordAt s (low20 (s.reg 15#5))) (movedTo s (s.reg 15#5 + 4#32)) := by
  rw [pop_eq, addrOf_eq_low20, memReadWord_eq, (aligned_eq_true_iff _ 4).2 ha, (mayAccess_eq_true_iff _ _).2 hacc]
  rfl

/-- A pop from a misaligned stack. -/
theorem pop_misaligned {s : State} (h : (low20 (s.reg 15#5)).toNat % 4 ≠ 0) :
    pop s = .error (.alignmentError (low20 (s.reg 15#5)) 4) s := by
  rw [pop_eq, addrOf_eq_low20, memReadWord_eq, (aligned_eq_false_iff _ 4).2 h]
  rfl

/-- A pop from the protected address space. -/
theorem pop_protected {s : State} (ha : (low20 (s.reg 15#5)).toNat % 4 = 0)
    (hacc : ¬ accessible s (low20 (s.reg 15#5))) : pop s = .error (.protectionError (low20 (s.reg 15#5))) s := by
  rw [pop_eq, addrOf_eq_low20, memReadWord_eq, (aligned_eq_true_iff _ 4).2 ha, (mayAccess_eq_false_iff _ _).2 hacc]
  rfl

/-- An instruction that begins with the pop of a word raises the pop's errors. -/
theorem popRaises_of_exec {i : Instr} {s : State} {rest : Word → Act Unit}
    (h : exec i s = perform (pop >>= rest) s) : popRaises i 4 s :=
  ⟨fun ha => h.trans (perform_error (Act.bind_error (pop_misaligned ha))),
    fun ha hacc => h.trans (perform_error (Act.bind_error (pop_protected ha hacc)))⟩

/-- RET is a pop, then a transfer to bits 19:0 of the word popped (R162). -/
theorem exec_ret (s : State) : exec .ret s = perform (pop >>= fun back => transferTo (low20 back)) s := by
  simp only [← addrOf_eq_low20]
  rfl

/-- RET where the pop passes its checks. -/
theorem transfersAfterPop_ret {s : State} (ha : (low20 (s.reg 15#5)).toNat % 4 = 0)
    (hacc : accessible s (low20 (s.reg 15#5))) :
    transfersAfterPop s (exec .ret s) (low20 (wordAt s (low20 (s.reg 15#5)))) := by
  have hafter : exec .ret s =
      perform (transferTo (low20 (wordAt s (low20 (s.reg 15#5))))) (movedTo s (s.reg 15#5 + 4#32)) := by
    rw [exec_ret, perform_bind_ok (pop_eq_movedTo ha hacc)]
  exact ⟨fun h => hafter.trans (perform_transferTo_aligned h _),
    fun h => hafter.trans (perform_transferTo_misaligned h _)⟩

/-- Settles O17: a pop, then a transfer. -/
theorem subroutineReturn : Obligations.SubroutineReturn :=
  ⟨isWord_of_encode rfl (by decide), fun s => ⟨transfersAfterPop_ret, popRaises_of_exec (exec_ret s)⟩⟩

/-! ## A call and its return -/

/-- A CALL instruction calls the target that `callTarget` gives. -/
theorem calls_of_callTarget {s : State} {i : Instr} {a : Addr} (h : callTarget s i = some a) :
    ∃ target, calls i target ∧ target s = a := by
  cases i with
  | callA addr20 => exact ⟨_, calls_callA addr20, Option.some.inj h⟩
  | callR sr => exact ⟨_, calls_callR sr, Option.some.inj h⟩
  | callX sr1 sr2 => exact ⟨_, calls_callX sr1 sr2, Option.some.inj h⟩
  | _ => cases h

/-- A word stored in canonical memory is read back. -/
theorem wordAt_of_storesBytes {s t : State} {a : Addr} {v : Word} (hm : s.mem.wf = true)
    (h : storesBytes s t a 4 v) : wordAt t a = v := by
  obtain ⟨hbytes, -⟩ := h
  have hbyte (k : Nat) (hk : k < 4) : t.mem.readByte (a + BitVec.ofNat 20 k) = field v (8 * k) 8 := hbytes hm k hk
  have h0 : t.mem.readByte a = field v 0 8 := by simpa using hbyte 0 (by decide)
  have hword : wordAt t a = wordOfBytes (t.mem.readByte a) (t.mem.readByte (a + 1#20)) (t.mem.readByte (a + 2#20))
      (t.mem.readByte (a + 3#20)) := rfl
  rw [hword, h0, hbyte 1 (by decide), hbyte 2 (by decide), hbyte 3 (by decide)]
  exact wordOfBytes_bytes v

/-- After the push of a word-aligned address in canonical memory, RET goes there with R15 as it was before the push. -/
theorem exec_ret_of_pushesWord {s t : State} {a : Addr} (hm : s.mem.wf = true) (hpush : mayPush s)
    (ha : a.toNat % 4 = 0) (h : pushesWord s t (zext a)) :
    exec .ret t = .next { movedTo t (s.reg 15#5) with pc := a } := by
  obtain ⟨hsp, -, hstore, hms, -, -⟩ := h
  obtain ⟨hal, hacc⟩ := hpush
  have hback : low20 (wordAt t (low20 (t.reg 15#5))) = a := by
    rw [hsp, wordAt_of_storesBytes hm hstore, low20_zext]
  have hrestored : t.reg 15#5 + 4#32 = s.reg 15#5 := by rw [hsp, pushedSp, BitVec.sub_add_cancel]
  obtain ⟨hret, -⟩ := transfersAfterPop_ret (hsp ▸ hal) (hsp ▸ (accessible_congr hms _).2 hacc)
  rw [hback, hrestored] at hret
  exact hret ha

/-- Settles O19: the call by `SubroutineCalls`, and the return by what the call's push leaves. -/
theorem callThenReturn : Obligations.CallThenReturn := by
  intro s i target hi hm hpc htarget hpush
  obtain ⟨f, hcalls, rfl⟩ := calls_of_callTarget hi
  obtain ⟨hpushed, -⟩ := hcalls s
  obtain ⟨haligned, -⟩ := hpushed hpush
  obtain ⟨t, hcall, hpushes, ht⟩ := haligned htarget
  have hret := exec_ret_of_pushesWord hm hpush hpc hpushes
  obtain ⟨-, hregs, ⟨-, hbytes⟩, hms, hsystem, hdevices⟩ := hpushes
  refine ⟨t, _, hcall, ht, hret, rfl, fun r _ => ?_, hms, hsystem, hdevices, hbytes⟩
  have hreg : State.reg { movedTo t (s.reg 15#5) with pc := s.pc } r = if r = 15#5 then s.reg 15#5 else t.reg r :=
    reg_movedTo t (s.reg 15#5) r
  rw [hreg]
  split
  · next hr => rw [hr]
  · next hr => exact hregs r (by simpa using hr)

end Sys2Proof.Machine
end

section
/-! The obligations of 43_load_store.md: the words of the loads and stores, the two checks of an access in the words of
the statements, what a load and a store make of them, and that the next fetch reads what a store has written. -/

namespace Sys2Proof.Machine
open Laws

/-! ## The words -/

/-- Format LD (30_encoding.md R89), under any opcode, in its three modes. The rules write opcode and mode as one
constant. -/
theorem pack_load (op : BitVec 5) (dr sr sr1 sr2 : Reg) (addr20 : Addr) :
    pack (op ++ dr ++ 0b00#2 ++ addr20) = place op 27 ||| place dr 22 ||| place addr20 0 ∧
      pack (op ++ dr ++ 0b01#2 ++ 0#15 ++ sr) = place op 27 ||| place 0b01#2 20 ||| place dr 22 ||| place sr 0 ∧
      pack (op ++ dr ++ 0b10#2 ++ 0#10 ++ sr1 ++ sr2) =
        place op 27 ||| place 0b10#2 20 ||| place dr 22 ||| place sr1 5 ||| place sr2 0 := by
  refine ⟨?_, ?_, ?_⟩ <;> simp only [pack_eq_place, place_append, place_zero, BitVec.or_zero]
  all_goals rw [or_right_comm _ (place dr _)]

/-- Format ST (30_encoding.md R90), under any opcode, in its three modes. -/
theorem pack_store (op : BitVec 5) (dr dr1 dr2 sr : Reg) (addr20 : Addr) :
    pack (op ++ 0b00#2 ++ addr20 ++ sr) = place op 27 ||| place addr20 5 ||| place sr 0 ∧
      pack (op ++ 0b01#2 ++ 0#15 ++ dr ++ sr) = place op 27 ||| place 0b01#2 25 ||| place dr 5 ||| place sr 0 ∧
      pack (op ++ 0b10#2 ++ 0#10 ++ dr1 ++ dr2 ++ sr) =
        place op 27 ||| place 0b10#2 25 ||| place dr1 10 ||| place dr2 5 ||| place sr 0 := by
  refine ⟨?_, ?_, ?_⟩ <;> simp only [pack_eq_place, place_append, place_zero, BitVec.or_zero]

/-! ## The checks of an access -/

/-- An access that passes its checks. -/
theorem checkAccess_ok {s : State} {a : Addr} {n : Nat} (ha : a.toNat % n = 0) (hacc : accessible s a) :
    checkAccess a n s = .ok () s := by
  rw [checkAccess_eq, (aligned_eq_true_iff a n).2 ha, (mayAccess_eq_true_iff s a).2 hacc]
  rfl

/-- An access at a misaligned address, protected or not (20_memory.md R55). -/
theorem checkAccess_misaligned {s : State} {a : Addr} {n : Nat} (ha : a.toNat % n ≠ 0) :
    checkAccess a n s = .error (.alignmentError a n) s := by
  rw [checkAccess_eq, (aligned_eq_false_iff a n).2 ha]
  rfl

/-- An access at an aligned address in the protected address space. -/
theorem checkAccess_protected {s : State} {a : Addr} {n : Nat} (ha : a.toNat % n = 0) (hacc : ¬ accessible s a) :
    checkAccess a n s = .error (.protectionError a) s := by
  rw [checkAccess_eq, (aligned_eq_true_iff a n).2 ha, (mayAccess_eq_false_iff s a).2 hacc]
  rfl

/-- An instruction that begins with the checks of an access goes on where they pass, and otherwise raises their error
and does nothing else. -/
theorem accesses_of_exec {i : Instr} {s : State} {a : Addr} {n : Nat} {rest : Unit → Act Unit}
    (h : exec i s = perform (checkAccess a n >>= rest) s) :
    (a.toNat % n = 0 → accessible s a → exec i s = perform (rest ()) s) ∧
      (a.toNat % n ≠ 0 → exec i s = .next (raised s (.alignmentError a n))) ∧
      (a.toNat % n = 0 → ¬ accessible s a → exec i s = .next (raised s (.protectionError a))) :=
  ⟨fun ha hacc => h.trans (perform_bind_ok (checkAccess_ok ha hacc)),
    fun ha => h.trans (perform_error (Act.bind_error (checkAccess_misaligned ha))),
    fun ha hacc => h.trans (perform_error (Act.bind_error (checkAccess_protected ha hacc)))⟩

/-! ## Loads -/

/-- An instruction whose meaning is a checked read of memory and then the end of a load: `read` is the read of its
width, and `extend` makes a word of what is read. -/
theorem loadsResult_of_exec {α : Type} {i : Instr} {dr : Reg} {n : Nat} {addr : State → Addr}
    (read : Memory → Addr → α) (extend : α → Word)
    (h : ∀ s, exec i s = perform ((checkAccess (addr s) n >>= fun _ => look fun u => read u.mem (addr s)) >>=
      fun v => finishLoad dr (extend v)) s) :
    loadsResult i dr n addr fun s => extend (read s.mem (addr s)) := by
  intro s
  obtain ⟨hok, herrors⟩ := accesses_of_exec ((h s).trans (by rw [bind_assoc]))
  exact ⟨fun ha hacc => ⟨_, hok ha hacc, writesResult_writeResult s dr _⟩, herrors⟩

/-- The load of a byte: it is sign-extended. -/
theorem loadsResult_loadByte {i : Instr} {dr : Reg} {addr : State → Addr}
    (h : ∀ s, exec i s = perform (loadByte dr (addr s)) s) :
    loadsResult i dr 1 addr fun s => (s.mem.readByte (addr s)).signExtend 32 :=
  loadsResult_of_exec Memory.readByte signedByte h

/-- The load of a short: its bytes are in little-endian order and it is sign-extended. -/
theorem loadsResult_loadShort {i : Instr} {dr : Reg} {addr : State → Addr}
    (h : ∀ s, exec i s = perform (loadShort dr (addr s)) s) :
    loadsResult i dr 2 addr fun s => (s.mem.readByte (addr s + 1#20) ++ s.mem.readByte (addr s)).signExtend 32 :=
  loadsResult_of_exec Memory.readShort signedShort h

/-- The load of a word: its bytes are in little-endian order. -/
theorem loadsResult_loadWord {i : Instr} {dr : Reg} {addr : State → Addr}
    (h : ∀ s, exec i s = perform (loadWord dr (addr s)) s) :
    loadsResult i dr 4 addr fun s => wordAt s (addr s) :=
  loadsResult_of_exec Memory.readWord id h

/-- Settles O22: the three forms are one load of a byte, at three addresses. -/
theorem loadBytes : Obligations.LoadBytes := by
  intro dr sr sr1 sr2 addr20
  obtain ⟨hA, hR, hX⟩ := pack_load 0b01001#5 dr sr sr1 sr2 addr20
  simp only [← addrOf_eq_low20]
  exact ⟨isWord_of_encode rfl hA, loadsResult_loadByte fun _ => rfl, isWord_of_encode rfl hR,
    loadsResult_loadByte fun _ => rfl, isWord_of_encode rfl hX, loadsResult_loadByte fun _ => rfl⟩

/-- Settles O23: the three forms are one load of a short, at three addresses. -/
theorem loadShorts : Obligations.LoadShorts := by
  intro dr sr sr1 sr2 addr20
  obtain ⟨hA, hR, hX⟩ := pack_load 0b01010#5 dr sr sr1 sr2 addr20
  simp only [← addrOf_eq_low20]
  exact ⟨isWord_of_encode rfl hA, loadsResult_loadShort fun _ => rfl, isWord_of_encode rfl hR,
    loadsResult_loadShort fun _ => rfl, isWord_of_encode rfl hX, loadsResult_loadShort fun _ => rfl⟩

/-- Settles O24: the three forms are one load of a word, at three addresses. -/
theorem loadWords : Obligations.LoadWords := by
  intro dr sr sr1 sr2 addr20
  obtain ⟨hA, hR, hX⟩ := pack_load 0b01011#5 dr sr sr1 sr2 addr20
  simp only [← addrOf_eq_low20]
  exact ⟨isWord_of_encode rfl hA, loadsResult_loadWord fun _ => rfl, isWord_of_encode rfl hR,
    loadsResult_loadWord fun _ => rfl, isWord_of_encode rfl hX, loadsResult_loadWord fun _ => rfl⟩

/-! ## Stores -/

/-- A byte written is the low byte of the word it is taken from, and no other byte changes. -/
theorem storesBytes_writeByte {s t : State} {a : Addr} {v : Word} (h : t.mem = s.mem.writeByte a (lowByte v)) :
    storesBytes s t a 1 v := by
  refine ⟨fun hm k hk => ?_, fun c hc => ?_⟩
  · obtain rfl : k = 0 := Nat.lt_one_iff.1 hk
    have hbyte : t.mem.readByte a = lowByte v := by rw [h, Memory.readByte_writeByte_same a _ hm]
    simpa [lowByte] using hbyte
  · rw [h, Memory.readByte_writeByte_ne s.mem _ (by simpa using ne_add_of_not_isWithin hc (k := 0) (by decide))]

/-- Each byte of the low short of a word is a byte of the word. -/
theorem extractLsb'_lowShort (v : Word) {k : Nat} (hk : k < 2) :
    (lowShort v).extractLsb' (8 * k) 8 = v.extractLsb' (8 * k) 8 := by
  apply BitVec.eq_of_getLsbD_eq
  intro j hj
  have hlt : 8 * k + j < 16 := by omega
  simp [lowShort, hlt]

/-- A short written is the two low bytes of the word it is taken from, and no other byte changes. -/
theorem storesBytes_writeShort {s t : State} {a : Addr} {v : Word} (h : t.mem = s.mem.writeShort a (lowShort v)) :
    storesBytes s t a 2 v := by
  refine ⟨fun hm k hk => ?_, fun c hc => ?_⟩
  · rw [h, Memory.readByte_writeShort_add a _ hm hk, extractLsb'_lowShort v hk]
  · rw [h, Memory.readByte_writeShort_of_not_isWithin s.mem _ hc]

/-- An instruction whose meaning is a checked write of a register's value to memory: `write` is the write of its
width. -/
theorem storesRegister_of_exec {i : Instr} {n : Nat} {addr : State → Addr} {sr : Reg}
    (write : Memory → Addr → Word → Memory)
    (hbytes : ∀ {s t : State} {a : Addr} {v : Word}, t.mem = write s.mem a v → storesBytes s t a n v)
    (h : ∀ s, exec i s = perform (checkAccess (addr s) n >>= fun _ =>
      change fun u => u.setMem (write u.mem (addr s) (s.reg sr))) s) :
    storesRegister i n addr sr := by
  intro s
  obtain ⟨hok, herrors⟩ := accesses_of_exec (h s)
  refine ⟨fun ha hacc => ⟨_, hok ha hacc, hbytes rfl, ?_⟩, herrors⟩
  exact ⟨fun _ _ => rfl, rfl, rfl, ⟨rfl, rfl, rfl, rfl, rfl⟩, rfl, rfl, rfl, rfl⟩

/-- The store of a register's low byte. -/
theorem storesRegister_storeByte {i : Instr} {addr : State → Addr} {sr : Reg}
    (h : ∀ s, exec i s = perform (storeByte (addr s) sr) s) : storesRegister i 1 addr sr :=
  storesRegister_of_exec (fun m a v => m.writeByte a (lowByte v)) storesBytes_writeByte h

/-- The store of a register's low short. -/
theorem storesRegister_storeShort {i : Instr} {addr : State → Addr} {sr : Reg}
    (h : ∀ s, exec i s = perform (storeShort (addr s) sr) s) : storesRegister i 2 addr sr :=
  storesRegister_of_exec (fun m a v => m.writeShort a (lowShort v)) storesBytes_writeShort h

/-- The store of a register. -/
theorem storesRegister_storeWord {i : Instr} {addr : State → Addr} {sr : Reg}
    (h : ∀ s, exec i s = perform (storeWord (addr s) sr) s) : storesRegister i 4 addr sr :=
  storesRegister_of_exec Memory.writeWord storesBytes_writeWord h

/-- Settles O25: the three forms are one store of a byte, at three addresses. -/
theorem storeBytes : Obligations.StoreBytes := by
  intro dr dr1 dr2 sr addr20
  obtain ⟨hA, hR, hX⟩ := pack_store 0b11100#5 dr dr1 dr2 sr addr20
  simp only [← addrOf_eq_low20]
  exact ⟨isWord_of_encode rfl hA, storesRegister_storeByte fun _ => rfl, isWord_of_encode rfl hR,
    storesRegister_storeByte fun _ => rfl, isWord_of_encode rfl hX, storesRegister_storeByte fun _ => rfl⟩

/-- Settles O26: the three forms are one store of a short, at three addresses. -/
theorem storeShorts : Obligations.StoreShorts := by
  intro dr dr1 dr2 sr addr20
  obtain ⟨hA, hR, hX⟩ := pack_store 0b11101#5 dr dr1 dr2 sr addr20
  simp only [← addrOf_eq_low20]
  exact ⟨isWord_of_encode rfl hA, storesRegister_storeShort fun _ => rfl, isWord_of_encode rfl hR,
    storesRegister_storeShort fun _ => rfl, isWord_of_encode rfl hX, storesRegister_storeShort fun _ => rfl⟩

/-- Settles O27: the three forms are one store of a word, at three addresses. -/
theorem storeWords : Obligations.StoreWords := by
  intro dr dr1 dr2 sr addr20
  obtain ⟨hA, hR, hX⟩ := pack_store 0b11110#5 dr dr1 dr2 sr addr20
  simp only [← addrOf_eq_low20]
  exact ⟨isWord_of_encode rfl hA, storesRegister_storeWord fun _ => rfl, isWord_of_encode rfl hR,
    storesRegister_storeWord fun _ => rfl, isWord_of_encode rfl hX, storesRegister_storeWord fun _ => rfl⟩

/-! ## A store and the next fetch -/

/-- A fetch that passes its checks reads the word at `pc` and advances `pc` (70_reset_and_hazards.md R296, R297). -/
theorem fetch_ok {s : State} (ha : s.pc.toNat % 4 = 0) (hacc : accessible s s.pc) :
    fetch s = .ok (wordAt s s.pc) (s.setPc (s.pc + 4#20)) := by
  rw [fetch_eq, (aligned_eq_true_iff s.pc 4).2 ha, (mayAccess_eq_true_iff s s.pc).2 hacc]
  rfl

/-- With a fetch that passes its checks, the cycle is the instruction whose word is at `pc`, with `pc` advanced. -/
theorem runInstruction_eq_exec {s : State} {i : Instr} (ha : s.pc.toNat % 4 = 0) (hacc : accessible s s.pc)
    (hi : isWord (wordAt s s.pc) i) : runInstruction s = exec i (s.setPc (s.pc + 4#20)) := by
  have hdecode : decodeWord (wordAt s s.pc) = .ok i := hi
  simp only [runInstruction, fetch_ok ha hacc, hdecode]

/-- A step of a running machine with nothing pending once the environment has acted is one instruction. -/
theorem step_eq_runInstruction {s : State} (hrun : s.Running) (hp : (environment s).pending = []) :
    step s = runInstruction (environment s) := by
  have hterminal : s.terminal = none := (State.terminal_eq_none_iff s).2 hrun
  simp only [step, hterminal, cycle, takePending, hp]

/-- Settles O59. All that the next step looks at before it decodes, but the word at `pc`, is as it was before the store,
and that word is the register's. -/
theorem storeIsSeenByTheNextFetch : Obligations.StoreIsSeenByTheNextFetch := by
  intro s t sr i hrun hm harr hp hpc hacc hword hstore
  have hstw : storesRegister (.stwA s.pc sr) 4 (fun _ => s.pc) sr := storesRegister_storeWord fun _ => rfl
  obtain ⟨hstores, -⟩ := hstw s
  obtain ⟨u, hu, hbytes, -, hms, hpc', ⟨-, hpending, hhalted, hfault, harrivals⟩, -⟩ := hstores hpc hacc
  obtain rfl : u = t := Host.Outcome.next.inj (hu.symm.trans hstore)
  have henv : environment u = u := by rw [environment, harrivals, harr]
  have hrun' : u.Running := by rw [State.Running, hfault, hhalted]; exact hrun
  have hp' : (environment u).pending = [] := by rw [henv, hpending, hp]
  have hword' : wordAt u u.pc = s.reg sr := by rw [hpc', wordAt_of_storesBytes hm hbytes]
  have hacc' : accessible u u.pc := by rw [hpc', accessible_congr hms]; exact hacc
  have hrunInstruction := runInstruction_eq_exec (hpc' ▸ hpc) hacc' (hword' ▸ hword)
  rw [step_eq_runInstruction hrun' hp', henv, hrunInstruction, hpc']
  rfl

end Sys2Proof.Machine
end

section
/-! The obligations of 44_copy_stack.md on the stack: the words of the pushes and pops, and what a push and a pop make
of the checks of their access. -/

namespace Sys2Proof.Machine
open Laws

/-! ## The words -/

/-- Formats PUSH-R and POP (30_encoding.md R92), under any opcode and row. The rules write the two of them as one
constant. -/
theorem pack_stack (op : BitVec 5) (row : BitVec 3) (r : Reg) :
    pack (op ++ row ++ 0#19 ++ r) = place op 27 ||| place row 24 ||| place r 0 := by
  simp only [pack_eq_place, place_append, place_zero, BitVec.or_zero]

/-- Format PUSH-I (30_encoding.md R92), under any opcode and extension selector. -/
theorem pack_stackI (op : BitVec 5) (sel : BitVec 1) (imm16 : BitVec 16) :
    pack (op ++ 0b000#3 ++ 0#7 ++ sel ++ imm16) = place op 27 ||| place sel 16 ||| place imm16 0 := by
  simp only [pack_eq_place, place_append, place_zero, BitVec.or_zero]

/-- The words of the pushes (R204 to R208). -/
theorem isWord_push (sr : Reg) (imm16 : BitVec 16) :
    isWord (0xf8000000#32 ||| place imm16 0) (.pushi imm16) ∧ isWord (0xf8010000#32 ||| place imm16 0) (.pushu imm16) ∧
      isWord (0xf9000000#32 ||| place sr 0) (.pushb sr) ∧ isWord (0xfa000000#32 ||| place sr 0) (.pushs sr) ∧
      isWord (0xfb000000#32 ||| place sr 0) (.pushw sr) :=
  ⟨isWord_of_encode rfl (pack_stackI 0b11111#5 0b0#1 imm16), isWord_of_encode rfl (pack_stackI 0b11111#5 0b1#1 imm16),
    isWord_of_encode rfl (pack_stack 0b11111#5 0b001#3 sr), isWord_of_encode rfl (pack_stack 0b11111#5 0b010#3 sr),
    isWord_of_encode rfl (pack_stack 0b11111#5 0b011#3 sr)⟩

/-- The words of the pops (R210 to R212). -/
theorem isWord_pop (dr : Reg) :
    isWord (0xfd000000#32 ||| place dr 0) (.popb dr) ∧ isWord (0xfe000000#32 ||| place dr 0) (.pops dr) ∧
      isWord (0xff000000#32 ||| place dr 0) (.popw dr) :=
  ⟨isWord_of_encode rfl (pack_stack 0b11111#5 0b101#3 dr), isWord_of_encode rfl (pack_stack 0b11111#5 0b110#3 dr),
    isWord_of_encode rfl (pack_stack 0b11111#5 0b111#3 dr)⟩

/-! ## Pushes -/

/-- A push formed from a register is the push of what is formed from the register after the decrement (R203; log
24). -/
theorem pushFrom_eq_push (sr : Reg) (form : Word → Word) (s : State) :
    pushFrom sr form s = push (form ((decremented s).reg sr)) s :=
  rfl

/-- An instruction whose meaning is one push pushes its value. -/
theorem pushesValue_of_exec {i : Instr} {v : State → Word}
    (h : ∀ s, exec i s = perform (push (v (decremented s))) s) : pushesValue i v := by
  intro s
  have hbind : exec i s = perform (push (v (decremented s)) >>= pure) s := by rw [h s, bind_pure]
  exact ⟨fun hpush => ⟨_, (h s).trans (perform_ok (push_of_mayPush hpush _)), pushesWord_pushed s _ s.pc, rfl⟩,
    pushRaises_of_exec hbind⟩

/-- An instruction whose meaning is a push formed from a register pushes what is formed from it. -/
theorem pushesValue_of_exec_pushFrom {i : Instr} {sr : Reg} (form : Word → Word)
    (h : ∀ s, exec i s = perform (pushFrom sr form) s) : pushesValue i fun s => form (s.reg sr) :=
  pushesValue_of_exec fun s => by rw [h s, perform, pushFrom_eq_push, perform]

/-- Settles O29: the immediates are pushed as they are, and the registers as they are after the decrement. -/
theorem pushes : Obligations.Pushes := by
  intro sr imm16
  obtain ⟨hI, hU, hB, hS, hW⟩ := isWord_push sr imm16
  exact ⟨hI, hU, hB, hS, hW, pushesValue_of_exec fun _ => rfl, pushesValue_of_exec fun _ => rfl,
    pushesValue_of_exec_pushFrom (fun v => signedByte (lowByte v)) fun _ => rfl,
    pushesValue_of_exec_pushFrom (fun v => signedShort (lowShort v)) fun _ => rfl,
    pushesValue_of_exec_pushFrom (fun v => v) fun _ => rfl⟩

/-! ## Pops -/

/-- The state after a pop of `v` to a register: R15 moves by 4 from where the write of the register left it (R209;
log 24). -/
def popped (s : State) (dr : Reg) (v : Word) : State :=
  movedTo (s.setReg dr v) ((s.setReg dr v).reg 15#5 + 4#32)

theorem reg_popped (s : State) (dr : Reg) (v : Word) (r : Reg) :
    (popped s dr v).reg r = if r = 15#5 then (s.setReg dr v).reg 15#5 + 4#32 else (s.setReg dr v).reg r :=
  reg_movedTo _ _ r

/-- A pop to R15 ends 4 above the value popped. -/
theorem sp_popped_same (s : State) (v : Word) : (popped s 15#5 v).reg 15#5 = v + 4#32 := by
  rw [reg_popped, if_pos rfl, State.reg_setReg_same]

/-- A pop to another register writes it and ends 4 above the old stack pointer. -/
theorem reg_popped_ne (s : State) {dr : Reg} (v : Word) (h : dr ≠ 15#5) :
    (popped s dr v).reg dr = v ∧ (popped s dr v).reg 15#5 = s.reg 15#5 + 4#32 := by
  rw [reg_popped, if_neg h, State.reg_setReg_same, reg_popped, if_pos rfl, State.reg_setReg_ne s v h.symm]
  exact ⟨rfl, rfl⟩

/-- A pop writes its register and R15, and no other. -/
theorem keepsRegs_popped (s : State) (dr : Reg) (v : Word) : keepsRegs s (popped s dr v) [dr, 15#5] := by
  intro r hr
  obtain ⟨hdr, hsp⟩ : r ≠ dr ∧ r ≠ 15#5 := by simpa using hr
  rw [reg_popped, if_neg hsp, State.reg_setReg_ne s v hdr]

/-- An instruction whose meaning is a checked read at the stack pointer, a write of a register and the move of R15:
`read` is the read of its width, and `merge` puts what is read into the register's old value. -/
theorem popsValue_of_exec {α : Type} {i : Instr} {dr : Reg} {n : Nat} (read : Memory → Addr → α)
    (merge : Word → α → Word)
    (h : ∀ s, exec i s = perform ((checkAccess (addrOf (s.reg 15#5)) n >>= fun _ =>
      look fun u => read u.mem (addrOf (s.reg 15#5))) >>= fun v =>
        change fun u => popped u dr (merge (u.reg dr) v)) s) :
    popsValue i dr n fun s => merge (s.reg dr) (read s.mem (low20 (s.reg 15#5))) := by
  intro s
  obtain ⟨hok, herrors⟩ := accesses_of_exec ((h s).trans (by rw [bind_assoc, addrOf_eq_low20]))
  refine ⟨fun ha hacc => ⟨_, hok ha hacc, ?_, reg_popped_ne s _, keepsRegs_popped s dr _, rfl, frame_of_eq rfl⟩,
    herrors⟩
  rintro rfl
  exact sp_popped_same s _

/-- Settles O30: the three are one pop, at three widths. -/
theorem pops : Obligations.Pops := by
  intro dr
  obtain ⟨hB, hS, hW⟩ := isWord_pop dr
  exact ⟨hB, hS, hW, popsValue_of_exec Memory.readByte withLowByte fun _ => rfl,
    popsValue_of_exec Memory.readShort withLowShort fun _ => rfl,
    popsValue_of_exec Memory.readWord (fun _ v => v) fun _ => rfl⟩

end Sys2Proof.Machine
end

section
/-! The obligations of 45_system_io.md: the words of IN, OUT and SSSP, the port and the address each names, and what it
does past its privilege check. -/

namespace Sys2Proof.Machine
open Laws

/-! ## The words -/

/-- The words of IN (R221, R222). -/
theorem isWord_in (dr sr : Reg) (imm8 : Port) :
    isWord (0x70000000#32 ||| place dr 9 ||| place sr 0) (.inR dr sr) ∧
      isWord (0x70000100#32 ||| place dr 9 ||| place imm8 0) (.inI dr imm8) := by
  refine ⟨isWord_of_encode rfl ?_, isWord_of_encode rfl ?_⟩ <;>
    simp only [encode, pack_eq_place, place_append, place_zero, BitVec.or_zero]
  · rfl
  · rw [or_right_comm _ (place dr _)]; rfl

/-- The words of OUT (R223, R224). -/
theorem isWord_out (dr sr : Reg) (imm8 : Port) :
    isWord (0x74000000#32 ||| place dr 5 ||| place sr 0) (.outR dr sr) ∧
      isWord (0x74002000#32 ||| place imm8 5 ||| place sr 0) (.outI imm8 sr) := by
  refine ⟨isWord_of_encode rfl ?_, isWord_of_encode rfl ?_⟩ <;>
    simp only [encode, pack_eq_place, place_append, place_zero, BitVec.or_zero] <;> rfl

/-- The words of SSSP (R226, R227). -/
theorem isWord_sssp (addr20 : Addr) (sr : Reg) :
    isWord (0x30000000#32 ||| place addr20 0) (.ssspA addr20) ∧
      isWord (0x30100000#32 ||| place sr 0) (.ssspR sr) := by
  refine ⟨isWord_of_encode rfl ?_, isWord_of_encode rfl ?_⟩ <;>
    simp only [encode, pack_eq_place, place_append, place_zero, BitVec.or_zero] <;> rfl

/-! ## The privilege check in the words of the statements -/

/-- In supervisor mode a performed sequence goes on from behind its privilege check. -/
theorem perform_privCheck_bind {s : State} (hs : s.ms.getLsbD 16 = true) (rest : Unit → Act Unit) :
    perform (privCheck >>= rest) s = perform (rest ()) s := by
  rw [perform, privCheck_bind_supervisor hs, perform]

/-! ## IN -/

/-- Both forms of IN are one read of the port they name, which a register has in its bits 7:0 (R225). -/
theorem exec_of_readsPort {i : Instr} {dr : Reg} {p : Port} {s : State} (h : readsPort i dr p s) :
    exec i s = perform (inputFrom dr p) s := by
  rcases h with rfl | ⟨sr, rfl, rfl⟩
  · rfl
  · rfl

/-- IN in supervisor mode: the word the port gives is the result. -/
theorem exec_readsPort {i : Instr} {dr : Reg} {p : Port} {s u : State} {v : Word} (hs : s.ms.getLsbD 16 = true)
    (hi : readsPort i dr p s) (hread : portRead p s = .ok v u) : exec i s = .next (u.writeResult dr v) := by
  rw [exec_of_readsPort hi, inputFrom, perform_privCheck_bind hs, perform_bind_ok hread]
  rfl

/-- A result written after a read that reached the input queue, the clock and the count of draws alone is an IN. -/
theorem inputsTo_writeResult (s : State) (q : List Byte) (c : Clock) (d : Nat) (dr : Reg) (v : Word) :
    inputsTo s (({ s with inQueue := q, clock := c, draws := d } : State).writeResult dr v) dr := by
  obtain ⟨hdr, hregs, hflags, hpc, hmem, hsystem, -, houtput, -⟩ :=
    writesResult_writeResult { s with inQueue := q, clock := c, draws := d } dr v
  refine ⟨hregs, ?_, hpc, hmem, hsystem, houtput⟩
  rw [hdr]
  exact hflags

/-- A port that no device reads gives any value, and the draw of it is all that happens (60_exceptions.md R278). -/
theorem portRead_other {p : Port} (hp : p ∉ [4#8, 5#8, 8#8, 9#8]) (s : State) :
    portRead p s = .ok (Config.drawWord s.draws) { s with draws := s.draws + 1 } := by
  obtain ⟨h4, h5, h8, h9⟩ : p ≠ 4#8 ∧ p ≠ 5#8 ∧ p ≠ 8#8 ∧ p ≠ 9#8 := by simpa using hp
  rw [portRead, if_neg h4, if_neg h5, if_neg h8, if_neg h9]
  rfl

/-- Settles O35: such a read is one draw, and its word is the result. -/
theorem readOtherPorts : Obligations.ReadOtherPorts := by
  intro dr sr imm8
  obtain ⟨hR, hI⟩ := isWord_in dr sr imm8
  refine ⟨hR, hI, fun i p s hs hp hi => ?_⟩
  exact ⟨_, exec_readsPort hs hi (portRead_other hp s), inputsTo_writeResult s s.inQueue s.clock _ dr _, rfl, rfl⟩

/-! ## OUT -/

/-- Both forms of OUT are one write of the port they name (R225). -/
theorem exec_of_writesPort {i : Instr} {sr : Reg} {p : Port} {s : State} (h : writesPort i sr p s) :
    exec i s = perform (outputTo p sr) s := by
  rcases h with rfl | ⟨dr, rfl, rfl⟩
  · rfl
  · rfl

/-- OUT in supervisor mode: the source register is sent to the port. -/
theorem perform_outputTo {s : State} (hs : s.ms.getLsbD 16 = true) (p : Port) (sr : Reg) :
    perform (outputTo p sr) s =
      .next (if p = 12#8 then { s with output := s.output ++ [(s.reg sr).extractLsb' 0 8] } else s) := by
  rw [outputTo, perform_privCheck_bind hs, perform_bind_ok (readReg_apply sr s), perform_ok (portWrite_eq p _ s),
    BitVec.setWidth_eq_extractLsb' (by decide)]
  rfl

/-- Settles O36: each form is one write of a port. -/
theorem writePorts : Obligations.WritePorts := by
  intro dr sr imm8
  obtain ⟨hR, hI⟩ := isWord_out dr sr imm8
  exact ⟨hR, hI, fun i p s hs hi => (exec_of_writesPort hi).trans (perform_outputTo hs p sr)⟩

/-! ## SSSP -/

/-- SSSP in supervisor mode, of a word-aligned address. -/
theorem perform_setSupervisorStack_aligned {s : State} (hs : s.ms.getLsbD 16 = true) {a : Addr}
    (ha : a.toNat % 4 = 0) : perform (setSupervisorStack a) s = .next { s with ssp := a } := by
  have hcheck : checkAligned a 4 s = .ok () s := by rw [checkAligned_eq, (aligned_eq_true_iff a 4).2 ha]; rfl
  rw [setSupervisorStack, perform_privCheck_bind hs, perform_bind_ok hcheck]
  rfl

/-- SSSP in supervisor mode, of a misaligned address. -/
theorem perform_setSupervisorStack_misaligned {s : State} (hs : s.ms.getLsbD 16 = true) {a : Addr}
    (ha : a.toNat % 4 ≠ 0) : perform (setSupervisorStack a) s = .next (raised s (.alignmentError a 4)) := by
  have hcheck : checkAligned a 4 s = .error (.alignmentError a 4) s := by
    rw [checkAligned_eq, (aligned_eq_false_iff a 4).2 ha]; rfl
  rw [setSupervisorStack, perform_privCheck_bind hs]
  exact perform_error (Act.bind_error hcheck)

/-- An instruction whose meaning is SSSP of an address: the privilege check, then the alignment check, then `ssp`. -/
theorem setsSsp_of_exec {i : Instr} (hi : IsSssp i) {s : State} {a : Addr}
    (h : exec i s = perform (setSupervisorStack a) s) :
    (s.ms.getLsbD 16 = false → exec i s = .next (raised s .privilegeViolation)) ∧
      (s.ms.getLsbD 16 = true → a.toNat % 4 ≠ 0 → exec i s = .next (raised s (.alignmentError a 4))) ∧
      (s.ms.getLsbD 16 = true → a.toNat % 4 = 0 → exec i s = .next { s with ssp := a }) :=
  ⟨fun hs => exec_privileged_user hi.isPrivileged hs,
    fun hs ha => h.trans (perform_setSupervisorStack_misaligned hs ha),
    fun hs ha => h.trans (perform_setSupervisorStack_aligned hs ha)⟩

end Sys2Proof.Machine

namespace Sys2Proof.Laws
open Machine

/-- Settles O37: both forms are SSSP of the address they name. -/
theorem setSupervisorStack : Obligations.SetSupervisorStack := by
  intro addr20 sr
  obtain ⟨hA, hR⟩ := isWord_sssp addr20 sr
  refine ⟨hA, hR, fun i a s hi => ?_⟩
  rcases hi with ⟨rfl, rfl⟩ | ⟨rfl, rfl⟩
  · exact setsSsp_of_exec (.inl ⟨_, rfl⟩) rfl
  · rw [← addrOf_eq_low20]
    exact setsSsp_of_exec (.inr ⟨_, rfl⟩) rfl

end Sys2Proof.Laws
end

section
/-! Every instruction as a program: a sequence of a few kinds of statement, read off its pseudocode once. What holds of
each statement and of a sequence then holds of every instruction: an outcome that does not depend on what no instruction
looks at (`Program.respects`), and the errors it can raise (`Program.spares`). -/

namespace Sys2Proof.Machine

/-- The state with another memory, pending set and tape of arrivals: the three fields that most statements neither read
nor write. -/
def State.beside (s : State) (m : Memory) (vs : List Vect) (l : List (List Byte)) : State :=
  { s with mem := m, pending := vs, arrivals := l }

/-- The state with another pending set and tape of arrivals. -/
def State.queued (s : State) (vs : List Vect) (l : List (List Byte)) : State := { s with pending := vs, arrivals := l }

/-- An update that keeps the mode and neither reads nor writes memory, the pending set and the arrivals. -/
structure Aside (f : State → State) : Prop where
  beside : ∀ s m vs l, f (s.beside m vs l) = (f s).beside m vs l
  supervisor : ∀ s, (f s).supervisor = s.supervisor

/-- What is read of memory depends only on the `n` bytes from `a` on. -/
def ReadsFrom {α : Type} (a : Addr) (n : Nat) (read : Memory → α) : Prop :=
  ∀ m m', (∀ k, k < n → m'.readByte (a + BitVec.ofNat 20 k) = m.readByte (a + BitVec.ofNat 20 k)) → read m' = read m

/-- The action is a sequence of statements of an instruction. With `sys` it may also be a statement that only SCL and
the privileged instructions make: reading or writing anything but the pending set and the arrivals. No statement records
an error, and none raises a privilege violation. -/
inductive Program (sys : Bool) : {α : Type} → Act α → Prop where
  | pure {α : Type} (a : α) : Program sys (pure a)
  | bind {α β : Type} {x : Act α} {f : α → Act β} (hx : Program sys x) (hf : ∀ a, Program sys (f a)) :
      Program sys (x >>= f)
  | require (ok : Bool) {e : MachineError} (he : e ≠ .privilegeViolation) : Program sys (require ok e)
  | look {α : Type} {f : State → α} (hf : ∀ s m vs l, f (s.beside m vs l) = f s) : Program sys (look f)
  | change {f : State → State} (hf : Aside f) (hfault : ∀ s, (f s).fault = s.fault) : Program sys (change f)
  | load {α : Type} {a : Addr} {n : Nat} {read : Memory → α} (hn : n ∣ 2 ^ 20) (hread : ReadsFrom a n read) :
      Program sys (checkAccess a n >>= fun _ => Machine.look fun s => read s.mem)
  | store (a : Addr) (b : Byte) : Program sys (Machine.change fun s => s.setMem (s.mem.writeByte a b))
  | lookSys {α : Type} {f : State → α} (hsys : sys = true) (hf : ∀ s vs l, f (s.queued vs l) = f s) :
      Program sys (Machine.look f)
  | changeSys {f : State → State} (hsys : sys = true) (hf : ∀ s vs l, f (s.queued vs l) = (f s).queued vs l)
      (hfault : ∀ s, (f s).fault = s.fault) : Program sys (Machine.change f)

/-! ## The named operations as programs -/

section Programs

variable {sys : Bool}

theorem program_readReg (r : Reg) : Program sys (readReg r) := .look fun _ _ _ _ => rfl

theorem program_writeReg (r : Reg) (v : Word) : Program sys (writeReg r v) :=
  .change ⟨fun _ _ _ _ => rfl, fun _ => rfl⟩ fun _ => rfl

theorem program_readPc : Program sys readPc := .look fun _ _ _ _ => rfl

theorem program_writePc (a : Addr) : Program sys (writePc a) :=
  .change ⟨fun _ _ _ _ => rfl, fun _ => rfl⟩ fun _ => rfl

theorem program_readMs : Program sys readMs := .look fun _ _ _ _ => rfl

theorem program_readSsp : Program sys readSsp := .look fun _ _ _ _ => rfl

theorem aside_setFlags {n : Nat} (x : BitVec n) : Aside fun s => s.setFlags x :=
  ⟨fun _ _ _ _ => rfl, fun s => modeIndicator_withFlagsOf x s.ms⟩

theorem program_updateFlags {n : Nat} (x : BitVec n) : Program sys (updateFlags x) :=
  .change (aside_setFlags x) fun _ => rfl

theorem program_growStack : Program sys growStack := .change ⟨fun _ _ _ _ => rfl, fun _ => rfl⟩ fun _ => rfl

theorem program_shrinkStack : Program sys shrinkStack := .change ⟨fun _ _ _ _ => rfl, fun _ => rfl⟩ fun _ => rfl

theorem program_checkAligned (a : Addr) (n : Nat) : Program sys (checkAligned a n) := .require _ (by simp)

theorem program_checkAccess (a : Addr) (n : Nat) : Program sys (checkAccess a n) :=
  (program_checkAligned a n).bind fun _ => (Program.look fun _ _ _ _ => rfl).bind fun _ => .require _ (by simp)

theorem program_memReadByte (a : Addr) : Program sys (memReadByte a) :=
  .load (read := fun m => m.readByte a) (one_dvd _) fun m m' h => by simpa using h 0 (by decide)

theorem program_memReadShort (a : Addr) : Program sys (memReadShort a) :=
  .load (read := fun m => m.readShort a) (by decide) fun m m' h => by
    have h0 : m'.readByte a = m.readByte a := by simpa using h 0 (by decide)
    have h1 := h 1 (by decide)
    simp only [Memory.readShort, h0, h1]

theorem readsFrom_readWord (a : Addr) : ReadsFrom a 4 fun m => m.readWord a := fun m m' h => by
  have h0 : m'.readByte a = m.readByte a := by simpa using h 0 (by decide)
  have h1 := h 1 (by decide)
  have h2 := h 2 (by decide)
  have h3 := h 3 (by decide)
  simp only [Memory.readWord, h0, h1, h2, h3]

theorem program_memReadWord (a : Addr) : Program sys (memReadWord a) := .load (by decide) (readsFrom_readWord a)

theorem program_memWriteByte (a : Addr) (v : Byte) : Program sys (memWriteByte a v) :=
  (program_checkAccess a 1).bind fun _ => .store a v

theorem program_memWriteShort (a : Addr) (v : Short) : Program sys (memWriteShort a v) :=
  (program_checkAccess a 2).bind fun _ => (Program.store _ _).bind fun _ => .store _ _

theorem program_storeWord (a : Addr) (v : Word) : Program sys (change fun s => s.setMem (s.mem.writeWord a v)) :=
  (Program.store _ _).bind fun _ => (Program.store _ _).bind fun _ => (Program.store _ _).bind fun _ => .store _ _

theorem program_memWriteWord (a : Addr) (v : Word) : Program sys (memWriteWord a v) :=
  (program_checkAccess a 4).bind fun _ => program_storeWord a v

theorem program_push (v : Word) : Program sys (push v) :=
  program_growStack.bind fun _ => (program_readReg _).bind fun _ => program_memWriteWord _ v

theorem program_pop : Program sys pop :=
  (program_readReg _).bind fun _ => (program_memReadWord _).bind fun v => program_shrinkStack.bind fun _ => .pure v

theorem program_transferTo (a : Addr) : Program sys (transferTo a) :=
  (program_checkAligned a 4).bind fun _ => program_writePc a

theorem program_transferIf (cond : Bool) (a : Addr) : Program sys (transferIf cond a) := by
  cases cond with
  | true => exact program_transferTo a
  | false => exact .pure ()

theorem program_callVia {target : State → Addr} (h : ∀ s m vs l, target (s.beside m vs l) = target s) :
    Program sys (callVia target) :=
  program_readPc.bind fun _ => (program_push _).bind fun _ => (Program.look h).bind fun a => program_transferTo a

theorem program_pushFrom (sr : Reg) (form : Word → Word) : Program sys (pushFrom sr form) :=
  program_growStack.bind fun _ => (program_readReg _).bind fun _ => (program_readReg _).bind fun _ =>
    program_memWriteWord _ _

theorem program_finishLoad (dr : Reg) (v : Word) : Program sys (finishLoad dr v) :=
  (program_writeReg dr v).bind fun _ => program_updateFlags v

theorem program_loadByte (dr : Reg) (a : Addr) : Program sys (loadByte dr a) :=
  (program_memReadByte a).bind fun _ => program_finishLoad dr _

theorem program_loadShort (dr : Reg) (a : Addr) : Program sys (loadShort dr a) :=
  (program_memReadShort a).bind fun _ => program_finishLoad dr _

theorem program_loadWord (dr : Reg) (a : Addr) : Program sys (loadWord dr a) :=
  (program_memReadWord a).bind fun _ => program_finishLoad dr _

theorem program_storeByte (a : Addr) (sr : Reg) : Program sys (storeByte a sr) :=
  (program_readReg sr).bind fun _ => program_memWriteByte a _

theorem program_storeShort (a : Addr) (sr : Reg) : Program sys (storeShort a sr) :=
  (program_readReg sr).bind fun _ => program_memWriteShort a _

theorem program_storeRegister (a : Addr) (sr : Reg) : Program sys (storeWord a sr) :=
  (program_readReg sr).bind fun _ => program_memWriteWord a _

/-- The fetch is a program too. -/
theorem program_fetch : Program sys fetch :=
  program_readPc.bind fun a => (program_memReadWord a).bind fun w => (program_writePc _).bind fun _ => .pure w

end Programs

/-! ## The operations of SCL and of the privileged instructions -/

theorem program_setSupervisor : Program true setSupervisor := .changeSys rfl (fun _ _ _ => rfl) fun _ => rfl

theorem program_writeMs (v : Word) : Program true (writeMs v) := .changeSys rfl (fun _ _ _ => rfl) fun _ => rfl

theorem program_writeSsp (a : Addr) : Program true (writeSsp a) := .changeSys rfl (fun _ _ _ => rfl) fun _ => rfl

theorem program_halt : Program true (change State.halt) := .changeSys rfl (fun _ _ _ => rfl) fun _ => rfl

theorem program_emit (b : Byte) : Program true (change fun s => s.emit b) :=
  .changeSys rfl (fun _ _ _ => rfl) fun _ => rfl

theorem program_countDraw : Program true (change State.countDraw) := .changeSys rfl (fun _ _ _ => rfl) fun _ => rfl

theorem program_setClock (c : Clock) : Program true (change fun s => (s.setClock c).countDraw) :=
  .changeSys rfl (fun _ _ _ => rfl) fun _ => rfl

theorem program_setInQueue (q : List Byte) : Program true (change fun s => s.setInQueue q) :=
  .changeSys rfl (fun _ _ _ => rfl) fun _ => rfl

theorem program_memReadWordSys (a : Addr) : Program true (memReadWordSys a) :=
  (program_checkAligned a 4).bind fun _ => .lookSys rfl fun _ _ _ => rfl

theorem program_pushSys (v : Word) : Program true (pushSys v) :=
  program_growStack.bind fun _ => (program_readReg _).bind fun _ => (program_checkAligned _ 4).bind fun _ =>
    program_storeWord _ v

theorem program_switchStack : Program true switchStack :=
  (program_readReg _).bind fun old => program_readSsp.bind fun _ => (program_writeReg _ _).bind fun _ =>
    program_pushSys old

theorem program_enterSupervisor (switch : Bool) (entry : Word) : Program true (enterSupervisor switch entry) := by
  have hkeep : Program true (enterSupervisor false entry) :=
    program_readMs.bind fun image => (program_pushSys image).bind fun _ => program_readPc.bind fun back =>
      (program_pushSys (wordOf back)).bind fun _ =>
        program_setSupervisor.bind fun _ => program_transferTo _
  cases switch with
  | false => exact hkeep
  | true =>
    rw [funext (enterSupervisor_switch entry)]
    exact program_switchStack.bind fun _ => hkeep

theorem program_restoreUserStack : Program true restoreUserStack := by
  refine program_readMs.bind fun ms => ?_
  split
  · exact .pure ()
  · exact (program_readReg _).bind fun _ => (program_memReadWordSys _).bind fun _ => program_writeReg _ _

theorem program_returnFromHandler : Program true returnFromHandler :=
  program_pop.bind fun _ => (program_transferTo _).bind fun _ => program_pop.bind fun _ =>
    (program_writeMs _).bind fun _ => program_restoreUserStack

theorem program_drawBits : Program true drawBits :=
  (Program.lookSys rfl fun _ _ _ => rfl).bind fun v =>
    program_countDraw.bind fun _ => .pure v

theorem program_readClock : Program true readClock :=
  (Program.lookSys rfl fun _ _ _ => rfl).bind fun now =>
    (program_setClock now).bind fun _ => .pure now

theorem program_takeInput : Program true takeInput := by
  refine program_drawBits.bind fun free => (Program.lookSys rfl fun _ _ _ => rfl).bind fun queue => ?_
  cases queue with
  | nil => exact .pure free
  | cons b rest => exact (program_setInQueue rest).bind fun _ => .pure _

theorem program_portRead (p : Port) : Program true (portRead p) := by
  unfold portRead
  split
  · exact program_readClock.bind fun _ => program_drawBits.bind fun _ => .pure _
  · split
    · exact program_readClock.bind fun _ => program_drawBits.bind fun _ => .pure _
    · split
      · exact program_drawBits.bind fun _ => .lookSys rfl fun _ _ _ => rfl
      · split
        · exact program_takeInput
        · exact program_drawBits

theorem program_portWrite (p : Port) (v : Word) : Program true (portWrite p v) := by
  unfold portWrite
  split
  · exact program_emit _
  · exact .pure ()

/-! ## The instructions as programs -/

/-- SCL and the privileged instructions. -/
def isSystem : Instr → Bool
  | .scl _ => true
  | i => isPrivileged i

theorem isSystem_of_not_isScl {i : Instr} (h : ¬ IsScl i) : isSystem i = isPrivileged i := by
  cases i with
  | scl n => exact absurd ⟨n, rfl⟩ h
  | _ => rfl

/-- The instruction runs as a program wherever its privilege check passes. -/
def RunsAs (i : Instr) (act : Act Unit) : Prop :=
  Program (isSystem i) act ∧ ∀ s, isPrivileged i = false ∨ s.supervisor = true → exec i s = perform act s

/-- An instruction that reads a value of the registers and `ms`, and then runs as a program with it. -/
theorem runsAs_of_look {α : Type} {i : Instr} {f : State → α} {act : α → Act Unit}
    (hf : ∀ s m vs l, f (s.beside m vs l) = f s) (hact : ∀ a, Program (isSystem i) (act a))
    (h : ∀ s, exec i s = perform (act (f s)) s) : ∃ act, RunsAs i act :=
  ⟨look f >>= act, (Program.look hf).bind hact, fun s _ => h s⟩

/-- An instruction that runs as a program whatever its state. -/
theorem runsAs_of_exec {i : Instr} {act : Act Unit} (hact : Program (isSystem i) act)
    (h : ∀ s, exec i s = perform act s) : ∃ act, RunsAs i act :=
  ⟨act, hact, fun s _ => h s⟩

/-- A privileged instruction runs as what comes behind its check, formed from a value of the registers. -/
theorem runsAs_of_privCheck {α : Type} {i : Instr} {f : State → α} {rest : α → Act Unit} (hi : isPrivileged i = true)
    (hf : ∀ s m vs l, f (s.beside m vs l) = f s) (hrest : ∀ a, Program (isSystem i) (rest a))
    (h : ∀ s, exec i s = perform (privCheck >>= fun _ => rest (f s)) s) : ∃ act, RunsAs i act := by
  refine ⟨look f >>= rest, (Program.look hf).bind hrest, fun s hs => ?_⟩
  have hs' : s.supervisor = true := hs.resolve_left (by simp [hi])
  rw [h s, perform, privCheck_bind_supervisor hs']
  rfl

/-- An instruction that only writes a value with its flags, formed from the registers. -/
theorem runsAs_writeResult {i : Instr} {dr : Reg} {f : State → Word}
    (h : ∀ s, exec i s = .next (s.writeResult dr (f s)))
    (hf : ∀ s m vs l, f (s.beside m vs l) = f s) : ∃ act, RunsAs i act :=
  runsAs_of_look hf (fun v => program_finishLoad dr v) h

/-- An instruction that only updates registers and flags. -/
theorem runsAs_of_aside {i : Instr} {f : State → State} (h : ∀ s, exec i s = .next (f s)) (hf : Aside f)
    (hfault : ∀ s, (f s).fault = s.fault) : ∃ act, RunsAs i act :=
  runsAs_of_exec (.change hf hfault) h

/-- Every instruction runs as a program wherever its privilege check passes. -/
theorem exists_runsAs (i : Instr) : ∃ act, RunsAs i act := by
  cases i with
  | addR | addI | subR | subI | mulsi | mulsu | neg | andR | andI | orR | orI | not | xorR | xorI
  | shflR | shflI | shfrzR | shfrzI | shfraR | shfraI => exact runsAs_writeResult (fun _ => rfl) fun _ _ _ _ => rfl
  | mulbi | mulbu | mulwi | mulwu | cmpR | cmpI =>
    exact runsAs_of_aside (fun _ => rfl) ⟨fun _ _ _ _ => rfl, fun _ => modeIndicator_withFlagsOf _ _⟩ fun _ => rfl
  | cpy | cpyi | cpyu =>
    exact runsAs_of_aside (fun _ => rfl) ⟨fun _ _ _ _ => rfl, fun _ => rfl⟩ fun _ => rfl
  | jcA n p z addr20 =>
    exact runsAs_of_look (f := fun s => conditionHolds n p z s.ms) (fun _ _ _ _ => rfl)
      (fun cond => program_transferIf cond addr20) fun _ => rfl
  | jcR n p z sr =>
    exact runsAs_of_look (f := fun s => (conditionHolds n p z s.ms, s.indirect sr)) (fun _ _ _ _ => rfl)
      (fun c => program_transferIf c.1 c.2) fun _ => rfl
  | jcX n p z sr1 sr2 =>
    exact runsAs_of_look (f := fun s => (conditionHolds n p z s.ms, s.indexed sr1 sr2)) (fun _ _ _ _ => rfl)
      (fun c => program_transferIf c.1 c.2) fun _ => rfl
  | jmpA addr20 => exact runsAs_of_exec (program_transferTo addr20) fun _ => rfl
  | jmpR sr => exact runsAs_of_look (f := fun s => s.indirect sr) (fun _ _ _ _ => rfl) program_transferTo fun _ => rfl
  | jmpX sr1 sr2 =>
    exact runsAs_of_look (f := fun s => s.indexed sr1 sr2) (fun _ _ _ _ => rfl) program_transferTo fun _ => rfl
  | callA | callR | callX => exact runsAs_of_exec (program_callVia fun _ _ _ _ => rfl) fun _ => rfl
  | scl n =>
    exact runsAs_of_exec ((program_memReadWordSys _).bind fun entry =>
      (Program.require _ (by simp)).bind fun _ => program_enterSupervisor true entry) fun _ => rfl
  | ret => exact runsAs_of_exec (program_pop.bind fun _ => program_transferTo _) fun _ => rfl
  | reti =>
    exact runsAs_of_privCheck (f := fun _ => ()) rfl (fun _ _ _ _ => rfl) (fun _ => program_returnFromHandler)
      fun _ => rfl
  | ldbA dr a => exact runsAs_of_exec (program_loadByte dr a) fun _ => rfl
  | ldbR dr sr =>
    exact runsAs_of_look (f := fun s => s.indirect sr) (fun _ _ _ _ => rfl) (program_loadByte dr) fun _ => rfl
  | ldbX dr sr1 sr2 =>
    exact runsAs_of_look (f := fun s => s.indexed sr1 sr2) (fun _ _ _ _ => rfl) (program_loadByte dr) fun _ => rfl
  | ldsA dr a => exact runsAs_of_exec (program_loadShort dr a) fun _ => rfl
  | ldsR dr sr =>
    exact runsAs_of_look (f := fun s => s.indirect sr) (fun _ _ _ _ => rfl) (program_loadShort dr) fun _ => rfl
  | ldsX dr sr1 sr2 =>
    exact runsAs_of_look (f := fun s => s.indexed sr1 sr2) (fun _ _ _ _ => rfl) (program_loadShort dr) fun _ => rfl
  | ldwA dr a => exact runsAs_of_exec (program_loadWord dr a) fun _ => rfl
  | ldwR dr sr =>
    exact runsAs_of_look (f := fun s => s.indirect sr) (fun _ _ _ _ => rfl) (program_loadWord dr) fun _ => rfl
  | ldwX dr sr1 sr2 =>
    exact runsAs_of_look (f := fun s => s.indexed sr1 sr2) (fun _ _ _ _ => rfl) (program_loadWord dr) fun _ => rfl
  | stbA a sr => exact runsAs_of_exec (program_storeByte a sr) fun _ => rfl
  | stbR dr sr =>
    exact runsAs_of_look (f := fun s => s.indirect dr) (fun _ _ _ _ => rfl) (program_storeByte · sr) fun _ => rfl
  | stbX dr1 dr2 sr =>
    exact runsAs_of_look (f := fun s => s.indexed dr1 dr2) (fun _ _ _ _ => rfl) (program_storeByte · sr) fun _ => rfl
  | stsA a sr => exact runsAs_of_exec (program_storeShort a sr) fun _ => rfl
  | stsR dr sr =>
    exact runsAs_of_look (f := fun s => s.indirect dr) (fun _ _ _ _ => rfl) (program_storeShort · sr) fun _ => rfl
  | stsX dr1 dr2 sr =>
    exact runsAs_of_look (f := fun s => s.indexed dr1 dr2) (fun _ _ _ _ => rfl) (program_storeShort · sr) fun _ => rfl
  | stwA a sr => exact runsAs_of_exec (program_storeRegister a sr) fun _ => rfl
  | stwR dr sr =>
    exact runsAs_of_look (f := fun s => s.indirect dr) (fun _ _ _ _ => rfl) (program_storeRegister · sr) fun _ => rfl
  | stwX dr1 dr2 sr =>
    exact runsAs_of_look (f := fun s => s.indexed dr1 dr2) (fun _ _ _ _ => rfl) (program_storeRegister · sr)
      fun _ => rfl
  | pushi | pushu => exact runsAs_of_exec (program_push _) fun _ => rfl
  | pushb | pushs | pushw => exact runsAs_of_exec (program_pushFrom _ _) fun _ => rfl
  | popb =>
    exact runsAs_of_exec ((program_readReg _).bind fun _ => (program_memReadByte _).bind fun _ =>
      (program_readReg _).bind fun _ => (program_writeReg _ _).bind fun _ => program_shrinkStack) fun _ => rfl
  | pops =>
    exact runsAs_of_exec ((program_readReg _).bind fun _ => (program_memReadShort _).bind fun _ =>
      (program_readReg _).bind fun _ => (program_writeReg _ _).bind fun _ => program_shrinkStack) fun _ => rfl
  | popw =>
    exact runsAs_of_exec ((program_readReg _).bind fun _ => (program_memReadWord _).bind fun _ =>
      (program_writeReg _ _).bind fun _ => program_shrinkStack) fun _ => rfl
  | inR dr sr =>
    exact runsAs_of_privCheck (f := fun s => s.portOf sr) rfl (fun _ _ _ _ => rfl)
      (fun p => (program_portRead p).bind fun v => program_finishLoad dr v) fun _ => rfl
  | inI dr p =>
    exact runsAs_of_privCheck (f := fun _ => p) rfl (fun _ _ _ _ => rfl)
      (fun p => (program_portRead p).bind fun v => program_finishLoad dr v) fun _ => rfl
  | outR dr sr =>
    exact runsAs_of_privCheck (f := fun s => s.portOf dr) rfl (fun _ _ _ _ => rfl)
      (fun p => (program_readReg sr).bind fun v => program_portWrite p v) fun _ => rfl
  | outI p sr =>
    exact runsAs_of_privCheck (f := fun _ => p) rfl (fun _ _ _ _ => rfl)
      (fun p => (program_readReg sr).bind fun v => program_portWrite p v) fun _ => rfl
  | ssspA a =>
    exact runsAs_of_privCheck (f := fun _ => a) rfl (fun _ _ _ _ => rfl)
      (fun a => (program_checkAligned a 4).bind fun _ => program_writeSsp a) fun _ => rfl
  | ssspR r =>
    exact runsAs_of_privCheck (f := fun s => s.indirect r) rfl (fun _ _ _ _ => rfl)
      (fun a => (program_checkAligned a 4).bind fun _ => program_writeSsp a) fun _ => rfl
  | halt =>
    exact runsAs_of_privCheck (f := fun _ => ()) rfl (fun _ _ _ _ => rfl)
      (fun _ => program_halt) fun _ => rfl

end Sys2Proof.Machine
end

section
/-! Two states that differ in what a program does not look at take it to states that differ in it again, by the same
way: a relation between states is kept by every program once it is kept by each kind of statement. -/

namespace Sys2Proof.Machine

/-- The two states differ in nothing a program can tell: in memory, the pending set and the arrivals at most, in no byte
that it may read, and every update it can make leaves them so. The last two clauses are about programs with
statements of the system. -/
structure Hides (sys : Bool) (R : State → State → Prop) : Prop where
  beside : ∀ {s t}, R s t → ∃ m vs l, t = s.beside m vs l
  change : ∀ {s t : State} {f : State → State}, R s t → Aside f → R (f s) (f t)
  read : ∀ {s t a}, R s t → s.mayAccess a = true → t.mem.readByte a = s.mem.readByte a
  write : ∀ {s t} a b, R s t → R (s.setMem (s.mem.writeByte a b)) (t.setMem (t.mem.writeByte a b))
  lookSys : sys = true → ∀ {α : Type} {f : State → α} {s t}, R s t → (∀ s vs l, f (s.queued vs l) = f s) → f t = f s
  changeSys : sys = true → ∀ {f : State → State} {s t : State}, R s t →
    (∀ s vs l, f (s.queued vs l) = (f s).queued vs l) → R (f s) (f t)

/-- Two runs of an action end alike: both complete with the same value or both raise the same error, in related
states. -/
inductive SameEnd (R : State → State → Prop) {α : Type} : (r r' : EStateM.Result MachineError State α) → Prop where
  | ok (a : α) {s t : State} (h : R s t) : SameEnd R (.ok a s) (.ok a t)
  | error (e : MachineError) {s t : State} (h : R s t) : SameEnd R (.error e s) (.error e t)

/-- From related states the action ends alike. -/
def Respects (R : State → State → Prop) {α : Type} (x : Act α) : Prop := ∀ ⦃s t⦄, R s t → SameEnd R (x s) (x t)

section Relation

variable {sys : Bool} {R : State → State → Prop}

theorem Respects.bind {α β : Type} {x : Act α} {f : α → Act β} (hx : Respects R x) (hf : ∀ a, Respects R (f a)) :
    Respects R (x >>= f) := by
  intro s t h
  have hend := hx h
  rw [Act.bind_apply, Act.bind_apply]
  cases hxs : x s <;> cases hxt : x t <;> rw [hxs, hxt] at hend <;> cases hend
  · exact hf _ ‹_›
  · exact .error _ ‹_›

theorem respects_require (ok : Bool) (e : MachineError) : Respects R (require ok e) := by
  intro s t h
  cases ok with
  | true => exact .ok () h
  | false => exact .error e h

theorem respects_look {α : Type} {f : State → α} (hf : ∀ ⦃s t⦄, R s t → f t = f s) : Respects R (look f) := by
  intro s t h
  rw [look_apply, look_apply, hf h]
  exact .ok _ h

theorem respects_change {f : State → State} (hf : ∀ ⦃s t⦄, R s t → R (f s) (f t)) : Respects R (change f) :=
  fun _ _ h => .ok () (hf h)

/-- What a related state reads the same as. -/
theorem Hides.look {α : Type} {f : State → α} (hR : Hides sys R) (hf : ∀ s m vs l, f (s.beside m vs l) = f s)
    {s t : State} (h : R s t) : f t = f s := by
  obtain ⟨m, vs, l, rfl⟩ := hR.beside h
  exact hf s m vs l

/-- Every byte of an access that passes its checks may be read on its own: an aligned access from 0x08000 up does not
wrap into the protected address space. -/
theorem mayAccess_add {s : State} {a : Addr} {n k : Nat} (hn : n ∣ 2 ^ 20) (hal : aligned a n = true)
    (ha : s.mayAccess a = true) (hk : k < n) : s.mayAccess (a + BitVec.ofNat 20 k) = true := by
  cases hs : s.supervisor with
  | true => simp [State.mayAccess, hs]
  | false =>
    have hle : 0x08000 ≤ (a + BitVec.ofNat 20 k).toNat := by
      by_contra hlt
      exact ne_add_of_aligned hal hn hk (le_of_mayAccess hs ha) (Nat.lt_of_not_le hlt) rfl
    simpa [State.mayAccess, hs, protectedLimit] using hle

/-- A checked read: the checks look at the address and the mode, and the read at bytes that may be read. -/
theorem Hides.respects_load {α : Type} (hR : Hides sys R) {a : Addr} {n : Nat} {read : Memory → α} (hn : n ∣ 2 ^ 20)
    (hread : ReadsFrom a n read) : Respects R (checkAccess a n >>= fun _ => Machine.look fun s => read s.mem) := by
  intro s t h
  have hmay : t.mayAccess a = s.mayAccess a := hR.look (f := fun s => s.mayAccess a) (fun _ _ _ _ => rfl) h
  rw [Act.bind_apply, Act.bind_apply, checkAccess_eq, checkAccess_eq, hmay]
  cases hal : aligned a n with
  | false => exact .error _ h
  | true =>
    cases hacc : s.mayAccess a with
    | false => exact .error _ h
    | true =>
      have hval : read t.mem = read s.mem := hread _ _ fun k hk => hR.read h (mayAccess_add hn hal hacc hk)
      show SameEnd R (.ok (read s.mem) s) (.ok (read t.mem) t)
      rw [hval]
      exact .ok _ h

/-- A program ends alike from states that differ in nothing it can tell. -/
theorem Program.respects (hR : Hides sys R) {α : Type} {x : Act α} (hx : Program sys x) : Respects R x := by
  induction hx with
  | pure a => exact fun _ _ h => .ok a h
  | bind _ _ ihx ihf => exact ihx.bind ihf
  | require ok _ => exact respects_require ok _
  | look hf => exact respects_look fun _ _ h => hR.look hf h
  | change hf _ => exact respects_change fun _ _ h => hR.change h hf
  | load hn hread => exact hR.respects_load hn hread
  | store a b => exact respects_change fun _ _ h => hR.write a b h
  | lookSys hsys hf => exact respects_look fun _ _ h => hR.lookSys hsys h hf
  | changeSys hsys hf _ => exact respects_change fun _ _ h => hR.changeSys hsys h hf

/-- Two outcomes are next states that are related. -/
def SameNext (R : State → State → Prop) (r r' : Result) : Prop := ∃ t t', r = .next t ∧ r' = .next t' ∧ R t t'

theorem aside_withFault (e : MachineError) : Aside fun s => s.withFault e := ⟨fun _ _ _ _ => rfl, fun _ => rfl⟩

/-- A performed program answers related states from related states. -/
theorem Program.sameNext_perform (hR : Hides sys R) {x : Act Unit} (hx : Program sys x) {s t : State} (h : R s t) :
    SameNext R (perform x s) (perform x t) := by
  have hend := hx.respects hR h
  cases hs : x s <;> cases ht : x t <;> rw [hs, ht] at hend <;> cases hend
  · exact ⟨_, _, perform_ok hs, perform_ok ht, ‹_›⟩
  · exact ⟨_, _, perform_error hs, perform_error ht, hR.change ‹_› (aside_withFault _)⟩

/-- Where its privilege check passes, an instruction answers related states from related states, if they hide what it
may look at. -/
theorem exec_sameNext {i : Instr} (hR : Hides (isSystem i) R) {s t : State} (h : R s t)
    (hrun : isPrivileged i = false ∨ s.supervisor = true) : SameNext R (exec i s) (exec i t) := by
  have hmode : t.supervisor = s.supervisor := hR.look (f := State.supervisor) (fun _ _ _ _ => rfl) h
  obtain ⟨act, hact, hexec⟩ := exists_runsAs i
  rw [hexec s hrun, hexec t (hmode ▸ hrun)]
  exact hact.sameNext_perform hR h

/-- In user mode a privileged instruction answers related states from related states: it records its error. -/
theorem exec_sameNext_user {i : Instr} (hR : Hides sys R) {s t : State} (h : R s t) (hi : isPrivileged i = true)
    (hs : s.supervisor = false) : SameNext R (exec i s) (exec i t) := by
  have hmode : t.supervisor = s.supervisor := hR.look (f := State.supervisor) (fun _ _ _ _ => rfl) h
  exact ⟨_, _, exec_privileged_user hi hs, exec_privileged_user hi (hmode.trans hs), hR.change h (aside_withFault _)⟩

end Relation

/-! ## The protected bytes -/

/-- In user mode, the same state but for bytes of the protected address space. -/
def SameToUser (s t : State) : Prop :=
  s.supervisor = false ∧ ∃ m, t = s.setMem m ∧ ∀ a : Addr, 0x08000 ≤ a.toNat → m.readByte a = s.mem.readByte a

/-- A byte written at the same address of two memories that agree from 0x08000 up leaves them so. -/
theorem Memory.writeByte_agree {m m' : Memory}
    (h : ∀ c : Addr, 0x08000 ≤ c.toNat → m'.readByte c = m.readByte c) (a : Addr) (b : Byte) (c : Addr)
    (hc : 0x08000 ≤ c.toNat) : (m'.writeByte a b).readByte c = (m.writeByte a b).readByte c := by
  by_cases hca : c = a
  · subst hca
    have hhigh : 0x200 ≤ c.toNat := by omega
    rw [Memory.readByte_writeByte_high m' c b hhigh, Memory.readByte_writeByte_high m c b hhigh]
  · rw [Memory.readByte_writeByte_ne m' b hca, Memory.readByte_writeByte_ne m b hca, h c hc]

/-- An update that neither reads nor writes memory is made alike with another memory. -/
theorem Aside.setMem {f : State → State} (hf : Aside f) (s : State) (m : Memory) :
    f (s.setMem m) = (f s).setMem m ∧ (f s).mem = s.mem := by
  have hs : f s = (f s).beside s.mem s.pending s.arrivals := hf.beside s s.mem s.pending s.arrivals
  refine ⟨?_, by rw [hs]; rfl⟩
  calc f (s.setMem m) = (f s).beside m s.pending s.arrivals := hf.beside s m s.pending s.arrivals
    _ = ((f s).beside s.mem s.pending s.arrivals).setMem m := rfl
    _ = (f s).setMem m := by rw [← hs]

/-- In user mode no program without statements of the system tells what the protected bytes are. -/
theorem hides_sameToUser : Hides false SameToUser where
  beside := by
    rintro s t ⟨-, m, rfl, -⟩
    exact ⟨m, s.pending, s.arrivals, rfl⟩
  change := by
    rintro s t f ⟨hs, m, rfl, hm⟩ hf
    obtain ⟨hset, hmem⟩ := hf.setMem s m
    exact ⟨(hf.supervisor s).trans hs, m, hset, fun a ha => (hm a ha).trans (by rw [hmem])⟩
  read := by
    rintro s t a ⟨hs, m, rfl, hm⟩ ha
    exact hm a (le_of_mayAccess hs ha)
  write := by
    rintro s t a b ⟨hs, m, rfl, hm⟩
    exact ⟨hs, m.writeByte a b, rfl, Memory.writeByte_agree hm a b⟩
  lookSys := nofun
  changeSys := nofun

/-- An error is recorded alike. -/
theorem SameToUser.withFault {s t : State} (h : SameToUser s t) (e : MachineError) :
    SameToUser (s.withFault e) (t.withFault e) :=
  hides_sameToUser.change (f := fun u => u.withFault e) h (aside_withFault e)

/-- States that agree outside the protected address space, in user mode. -/
theorem sameToUser_of_agree {s t : State} (hs : s.supervisor = false) (h : agreeOutsideProtected s t) :
    SameToUser s t := by
  obtain ⟨hr, hpc, hms, hssp, hpend, hhalt, hfault, hin, hout, hclock, hdraws, harr, hmem⟩ := h
  refine ⟨hs, t.mem, ?_, fun a ha => (hmem a ha).symm⟩
  exact State.ext_reg (fun r => (hr r).symm) hpc.symm hms.symm hssp.symm rfl hpend.symm hhalt.symm hfault.symm hin.symm
    hout.symm hclock.symm hdraws.symm harr.symm

theorem SameToUser.agree {s t : State} (h : SameToUser s t) : agreeOutsideProtected s t := by
  obtain ⟨-, m, rfl, hm⟩ := h
  exact ⟨fun _ => rfl, rfl, rfl, rfl, rfl, rfl, rfl, rfl, rfl, rfl, rfl, rfl, fun a ha => (hm a ha).symm⟩

theorem arrive_setMem (bs : List Byte) (s : State) (m : Memory) :
    arrive bs (s.setMem m) = (arrive bs s).setMem m := by
  unfold arrive
  rw [State.setMem_inQueue]
  split_ifs <;> rfl

/-- The environment does not look at memory. -/
theorem environment_setMem (s : State) (m : Memory) : environment (s.setMem m) = (environment s).setMem m := by
  unfold environment
  rw [State.setMem_arrivals]
  cases s.arrivals with
  | nil => rfl
  | cons bs later => exact arrive_setMem bs (s.setArrivals later) m

theorem SameToUser.environment {s t : State} (h : SameToUser s t) : SameToUser (environment s) (environment t) := by
  obtain ⟨hs, m, rfl, hm⟩ := h
  refine ⟨?_, m, environment_setMem s m, ?_⟩
  · rw [State.supervisor, environment_ms]
    exact hs
  · rw [environment_mem]
    exact hm

/-- A fetch that completes gives the word at `pc`. -/
theorem eq_wordAt_of_fetch {s u : State} {w : Word} (h : fetch s = .ok w u) : w = wordAt s s.pc := by
  rw [fetch_eq] at h
  split at h <;> [split at h; skip] <;> cases h
  rfl

/-- In user mode no instruction but SCL tells what the protected bytes are. -/
theorem SameToUser.sameNext_exec {i : Instr} {s t : State} (h : SameToUser s t) (hscl : ¬ IsScl i) :
    SameNext SameToUser (exec i s) (exec i t) := by
  cases hp : isPrivileged i with
  | true =>
    have ⟨hs, _⟩ := h
    exact exec_sameNext_user hides_sameToUser h hp hs
  | false =>
    have hsys : isSystem i = false := by rw [isSystem_of_not_isScl hscl, hp]
    exact exec_sameNext (hsys ▸ hides_sameToUser) h (.inl hp)

theorem runInstruction_of_fetch_error {s u : State} {e : MachineError} (h : fetch s = .error e u) :
    runInstruction s = .next (u.withFault e) := by
  rw [runInstruction, h]

theorem runInstruction_of_illegal {s u : State} {w : Word} {r : Reject} (h : fetch s = .ok w u)
    (hw : decodeWord w = .error r) : runInstruction s = .next (u.withFault (.illegalInstruction w)) := by
  simp only [runInstruction, h, hw]

theorem runInstruction_of_isWord {s u : State} {w : Word} {i : Instr} (h : fetch s = .ok w u) (hw : isWord w i) :
    runInstruction s = exec i u := by
  have hdecode : decodeWord w = .ok i := hw
  simp only [runInstruction, h, hdecode]

/-- The instruction cycle with nothing pending, where the word at `pc` is not SCL. -/
theorem SameToUser.sameNext_runInstruction {s t : State} (h : SameToUser s t)
    (hscl : ∀ n, ¬ isWord (wordAt s s.pc) (.scl n)) : SameNext SameToUser (runInstruction s) (runInstruction t) := by
  have hend := (program_fetch (sys := false)).respects hides_sameToUser h
  cases hs : fetch s <;> cases ht : fetch t <;> rw [hs, ht] at hend <;> cases hend
  case ok.ok w u u' hu =>
    cases hw : decodeWord w with
    | error r =>
      exact ⟨_, _, runInstruction_of_illegal hs hw, runInstruction_of_illegal ht hw,
        hu.withFault _⟩
    | ok i =>
      have hi : ¬ IsScl i := by
        rintro ⟨n, rfl⟩
        exact hscl n (eq_wordAt_of_fetch hs ▸ hw)
      rw [runInstruction_of_isWord hs hw, runInstruction_of_isWord ht hw]
      exact hu.sameNext_exec hi
  case error.error e u u' hu =>
    exact ⟨_, _, runInstruction_of_fetch_error hs, runInstruction_of_fetch_error ht,
      hu.withFault e⟩

/-- Settles O57. The environment does not look at memory, and the cycle that follows ends alike. -/
theorem userModeCannotRead : Obligations.UserModeCannotRead := by
  intro s s' hrun hagree hs hp hscl
  have hrun' : s'.Running := by
    obtain ⟨-, -, -, -, -, hhalt, hfault, -⟩ := hagree
    rw [State.Running, ← hfault, ← hhalt]
    exact hrun
  have hsame : SameToUser (environment s) (environment s') := (sameToUser_of_agree hs hagree).environment
  have hp' : (environment s').pending = [] := by
    obtain ⟨-, m, henv, -⟩ := hsame
    rw [henv, State.setMem_pending, hp]
  have hword : wordAt (environment s) (environment s).pc = wordAt s s.pc := by
    rw [environment_pc, wordAt, environment_mem, wordAt]
  obtain ⟨t, t', ht, ht', h⟩ := hsame.sameNext_runInstruction (hword ▸ hscl)
  exact ⟨t, t', (step_eq_runInstruction hrun hp).trans ht, (step_eq_runInstruction hrun' hp').trans ht', h.agree⟩

end Sys2Proof.Machine
end

section
/-! What every instruction leaves alone (10_state.md R39, R40; 60_exceptions.md R244): the pending set and the arrivals,
the halted state unless it is HALT, and the record of an error, in which only the privilege check puts a privilege
violation. -/

namespace Sys2Proof.Machine

/-! ## The pending set and the arrivals -/

/-- No program tells what is pending and what is to arrive, one with statements of the system neither. -/
theorem hides_queued (sys : Bool) (vs : List Vect) (l : List (List Byte)) :
    Hides sys fun s t => t = s.queued vs l where
  beside := by
    rintro s _ rfl
    exact ⟨s.mem, vs, l, rfl⟩
  change := by
    rintro s _ f rfl hf
    obtain ⟨-, hmem⟩ := hf.setMem s s.mem
    calc f (s.queued vs l) = (f s).beside s.mem vs l := hf.beside s s.mem vs l
      _ = (f s).queued vs l := by rw [← hmem]; rfl
  read := by
    rintro s _ a rfl -
    rfl
  write := by
    rintro s _ a b rfl
    rfl
  lookSys := by
    rintro - α f s _ rfl hf
    exact hf s vs l
  changeSys := by
    rintro - f s _ rfl hf
    exact hf s vs l

/-- Every instruction goes from a state with another pending set and tape of arrivals to the state that differs in them
alone. -/
theorem exec_queued {i : Instr} {s t : State} (h : exec i s = .next t) (vs : List Vect) (l : List (List Byte)) :
    exec i (s.queued vs l) = .next (t.queued vs l) := by
  have hsame : SameNext (fun s t => t = s.queued vs l) (exec i s) (exec i (s.queued vs l)) := by
    by_cases hrun : isPrivileged i = false ∨ s.supervisor = true
    · exact exec_sameNext (hides_queued _ vs l) rfl hrun
    · obtain ⟨hpriv, hs⟩ : isPrivileged i = true ∧ s.supervisor = false := by simpa using hrun
      exact exec_sameNext_user (hides_queued true vs l) rfl hpriv hs
  obtain ⟨u, u', hu, hu', rfl⟩ := hsame
  obtain rfl : u = t := Host.Outcome.next.inj (hu.symm.trans h)
  exact hu'

/-- No update of an instruction writes the pending set or the arrivals. -/
theorem Updates.queue_eq {i : Instr} {s t : State} (h : Updates i s t) :
    t.pending = s.pending ∧ t.arrivals = s.arrivals := by
  have hall := Updates.preserves (f := fun u => (u.pending, u.arrivals)) (fun u v hu => ?_) h
  · simpa using hall
  · cases hu <;> rfl

/-! ## The halted state and the record of an error -/

/-- No update but HALT's halts the machine. -/
theorem Updates.halted_eq {i : Instr} (hi : i ≠ .halt) {s t : State} (h : Updates i s t) : t.halted = s.halted := by
  refine Updates.preserves (f := State.halted) (fun u v hu => ?_) h
  cases hu with
  | halt hh => exact absurd hh hi
  | _ => rfl

/-- HALT in supervisor mode (45_system_io.md R229). -/
theorem exec_halt {s : State} (hs : s.supervisor = true) : exec .halt s = .next { s with halted := true } :=
  perform_ok (privCheck_bind_supervisor hs _)

/-- An instruction that changes the halted state is HALT in supervisor mode, and it sets it. -/
theorem exec_halted_ne {i : Instr} {s t : State} (h : exec i s = .next t) (hne : t.halted ≠ s.halted) :
    i = .halt ∧ s.supervisor = true ∧ t.halted = true := by
  have hi : i = .halt := by
    by_contra hi
    exact hne ((exec_updates h).halted_eq hi)
  subst hi
  have hs : s.supervisor = true := supervisor_of_privileged rfl h (by rintro e rfl; exact hne rfl)
  rw [exec_halt hs] at h
  cases h
  exact ⟨rfl, hs, rfl⟩

/-- No update takes an error off the record. -/
theorem Updates.fault_of_none {i : Instr} {s t : State} (h : Updates i s t) (ht : t.fault = none) : s.fault = none := by
  induction h with
  | refl => exact ht
  | tail _ hu ih =>
    refine ih ?_
    cases hu with
    | fault e => cases ht
    | _ => exact ht

/-- Settles O54: what is queued by `exec_queued`, the rest by what the updates of an instruction are. -/
theorem instructionsLeavePending : Obligations.InstructionsLeavePending := by
  intro i s t h
  obtain ⟨hpending, harrivals⟩ := (exec_updates h).queue_eq
  exact ⟨hpending, harrivals, exec_queued h, exec_halted_ne h, (exec_updates h).fault_of_none⟩

/-! ## Privilege violations -/

/-- Where the action completes it has recorded no error, and where it raises one, that is no privilege violation. -/
def Spares {α : Type} (x : Act α) : Prop :=
  ∀ s, (∀ a t, x s = .ok a t → t.fault = s.fault) ∧ ∀ e t, x s = .error e t → e ≠ .privilegeViolation

theorem Spares.bind {α β : Type} {x : Act α} {f : α → Act β} (hx : Spares x) (hf : ∀ a, Spares (f a)) :
    Spares (x >>= f) := by
  refine fun s => ⟨fun b t h => ?_, fun e t h => ?_⟩
  · obtain ⟨a, u, hxu, hfu⟩ := Act.bind_eq_ok.1 h
    exact ((hf a u).1 b t hfu).trans ((hx s).1 a u hxu)
  · rcases Act.bind_eq_error.1 h with hxe | ⟨a, u, -, hfe⟩
    · exact (hx s).2 e t hxe
    · exact (hf a u).2 e t hfe

theorem spares_pure {α : Type} (a : α) : Spares (pure a) := by
  refine fun s => ⟨fun b t h => ?_, nofun⟩
  cases h
  rfl

theorem spares_look {α : Type} (f : State → α) : Spares (look f) := by
  refine fun s => ⟨fun b t h => ?_, nofun⟩
  cases h
  rfl

theorem spares_change {f : State → State} (hf : ∀ s, (f s).fault = s.fault) : Spares (change f) := by
  refine fun s => ⟨fun b t h => ?_, nofun⟩
  cases h
  exact hf s

theorem spares_require (ok : Bool) {e : MachineError} (he : e ≠ .privilegeViolation) : Spares (require ok e) := by
  refine fun s => ⟨fun b t h => ?_, fun e' t h => ?_⟩ <;> rw [require_eq] at h <;> split at h <;> cases h
  · rfl
  · exact he

theorem spares_checkAccess (a : Addr) (n : Nat) : Spares (checkAccess a n) :=
  (spares_require _ (by simp)).bind fun _ => (spares_look _).bind fun _ => spares_require _ (by simp)

/-- No program raises a privilege violation or records an error. -/
theorem Program.spares {sys : Bool} {α : Type} {x : Act α} (hx : Program sys x) : Spares x := by
  induction hx with
  | pure a => exact spares_pure a
  | bind _ _ ihx ihf => exact ihx.bind ihf
  | require ok he => exact spares_require ok he
  | look => exact spares_look _
  | change _ hfault => exact spares_change hfault
  | load => exact (spares_checkAccess _ _).bind fun _ => spares_look _
  | store => exact spares_change fun _ => rfl
  | lookSys => exact spares_look _
  | changeSys _ _ hfault => exact spares_change hfault

/-- Where its privilege check passes, no instruction raises a privilege violation. -/
theorem exec_fault_ne {i : Instr} {s t : State} (hs : s.fault = none)
    (hrun : isPrivileged i = false ∨ s.supervisor = true) (h : exec i s = .next t) :
    t.fault ≠ some .privilegeViolation := by
  obtain ⟨act, hact, hexec⟩ := exists_runsAs i
  rw [hexec s hrun] at h
  obtain ⟨hok, herror⟩ := hact.spares s
  rcases perform_cases h with hx | ⟨e, u, hx, rfl⟩
  · simp [hok () t hx, hs]
  · simpa using herror e u hx

/-- Settles O32: the error in user mode is the privilege check's, and no program raises it. -/
theorem privilegedInUserMode : Obligations.PrivilegedInUserMode :=
  fun _ _ => ⟨fun hi hs => exec_privileged_user hi hs, fun hs hrun _ h => exec_fault_ne hs hrun h⟩

end Sys2Proof.Machine
end

section
/-! Entering and leaving supervisor mode (60_exceptions.md sections 4 to 6): the frame an entry leaves on a stack, the
entry that SCL and the service of an interrupt share, RETI, and that RETI after an entry puts everything back. -/

namespace Sys2Proof.Machine
open Laws

/-! ## Frames -/

theorem low20_sub (x y : Word) : low20 (x - y) = low20 x - low20 y := by
  apply BitVec.eq_of_toNat_eq
  have hx := x.isLt
  have hy := y.isLt
  simp only [← addrOf_eq_low20, addrOf, BitVec.toNat_setWidth, BitVec.toNat_sub]
  omega

theorem low20_ofNat (n : Nat) : low20 (BitVec.ofNat 32 n) = BitVec.ofNat 20 n := by
  rw [← addrOf_eq_low20, addrOf, BitVec.setWidth_ofNat_of_le (by decide)]

/-- Memory with a frame of words stored below `top`, the first word highest. -/
def storeFrame (m : Memory) (top : Word) : List Word → Memory
  | [] => m
  | w :: ws => storeFrame (m.writeWord (low20 (top - 4#32)) w) (top - 4#32) ws

/-- One word further down a frame. -/
theorem sub_four_sub (top : Word) (n : Nat) :
    top - 4#32 - BitVec.ofNat 32 (4 * n) = top - BitVec.ofNat 32 (4 * (n + 1)) := by
  rw [Nat.mul_succ, BitVec.ofNat_add]
  bv_omega

/-- Where the highest word of a frame is, counted from the lowest byte. -/
theorem low20_sub_four (top : Word) (n : Nat) :
    low20 (top - 4#32) = low20 (top - BitVec.ofNat 32 (4 * (n + 1))) + BitVec.ofNat 20 (4 * n) := by
  rw [← sub_four_sub, low20_sub _ (BitVec.ofNat 32 (4 * n)), low20_ofNat, BitVec.sub_add_cancel]

/-- A frame stored leaves every byte but its own as it was. -/
theorem readByte_storeFrame (ws : List Word) (m : Memory) (top : Word) {c : Addr}
    (hc : ¬ isWithin (low20 (top - BitVec.ofNat 32 (4 * ws.length))) (4 * ws.length) c) :
    (storeFrame m top ws).readByte c = m.readByte c := by
  induction ws generalizing m top with
  | nil => rfl
  | cons w ws ih =>
    rw [List.length_cons] at hc
    have hrest : ¬ isWithin (low20 (top - 4#32 - BitVec.ofNat 32 (4 * ws.length))) (4 * ws.length) c := by
      rintro ⟨k, hk, hck⟩
      rw [sub_four_sub] at hck
      exact hc ⟨k, by omega, hck⟩
    have hfirst : ¬ isWithin (low20 (top - 4#32)) 4 c := by
      rintro ⟨k, hk, hck⟩
      rw [low20_sub_four top ws.length, BitVec.add_assoc, ← BitVec.ofNat_add] at hck
      exact hc ⟨4 * ws.length + k, by omega, hck⟩
    exact (ih _ _ hrest).trans (Memory.readByte_writeWord_of_not_isWithin m w hfirst)

/-- The words stored in a frame are read back. -/
theorem readWord_storeFrame (ws : List Word) {m : Memory} (hm : m.wf = true) (top : Word)
    (hlen : 4 * ws.length ≤ 2 ^ 20) (k : Nat) (hk : k < ws.length) :
    (storeFrame m top ws).readWord (low20 (top - BitVec.ofNat 32 (4 * (k + 1)))) = ws[k] := by
  induction ws generalizing m top k with
  | nil => cases hk
  | cons w ws ih =>
    rw [List.length_cons] at hlen hk
    have hwf := Memory.wf_writeWord (low20 (top - 4#32)) w hm
    cases k with
    | zero =>
      have hbytes (j : Nat) (hj : j < 4) :
          (storeFrame m top (w :: ws)).readByte (low20 (top - 4#32) + BitVec.ofNat 20 j) =
            (m.writeWord (low20 (top - 4#32)) w).readByte (low20 (top - 4#32) + BitVec.ofNat 20 j) := by
        refine readByte_storeFrame ws _ _ ?_
        rintro ⟨i, hi, hji⟩
        rw [sub_four_sub, low20_sub_four top ws.length, BitVec.add_assoc, BitVec.add_right_inj, ← BitVec.ofNat_add]
          at hji
        have hnat := congrArg BitVec.toNat hji
        rw [BitVec.toNat_ofNat, BitVec.toNat_ofNat, Nat.mod_eq_of_lt (by omega), Nat.mod_eq_of_lt (by omega)] at hnat
        omega
      exact (readsFrom_readWord _ _ _ hbytes).trans (Memory.readWord_writeWord _ w hm)
    | succ k =>
      rw [← sub_four_sub]
      exact ih hwf _ (by omega) k (by omega)

/-- The state after an entry into supervisor mode with a frame of words below `top`, but for `pc`. -/
def entered (s : State) (top : Word) (words : List Word) : State :=
  { movedTo s (top - BitVec.ofNat 32 (4 * words.length)) with
    mem := storeFrame s.mem top words, ms := withSupervisor s.ms }

/-- The first word of a frame may be stored by itself. -/
theorem entered_cons (s : State) (top w : Word) (ws : List Word) :
    entered ((movedTo s (top - 4#32)).setMem (s.mem.writeWord (low20 (top - 4#32)) w)) (top - 4#32) ws =
      entered s top (w :: ws) := by
  simp only [entered, sub_four_sub, movedTo, State.setMem, Vector.set_set, List.length_cons]
  rfl

/-- The state after an entry, wherever `pc` then goes. -/
theorem entersMode_entered (s : State) (top : Word) {words : List Word} (hlen : 4 * words.length ≤ 2 ^ 20) (a : Addr) :
    entersMode s { entered s top words with pc := a } top words := by
  have hreg (r : Reg) : State.reg { entered s top words with pc := a } r =
      if r = 15#5 then top - BitVec.ofNat 32 (4 * words.length) else s.reg r := reg_movedTo s _ r
  refine ⟨⟨hreg 15#5, fun r hr => (hreg r).trans (if_neg (List.ne_of_not_mem_cons hr)),
      fun hm k hk => ?_, fun c hc => ?_⟩, getLsbD_withSupervisor s.ms, ⟨rfl, rfl, rfl, rfl, rfl⟩, rfl, rfl, rfl, rfl⟩
  · exact readWord_storeFrame words hm top hlen k hk
  · exact readByte_storeFrame words s.mem top hc

/-! ## Entries -/

/-- The unchecked push of an entry, on a misaligned stack. -/
theorem pushSys_misaligned {s : State} (h : (low20 (s.reg 15#5)).toNat % 4 ≠ 0) (v : Word) :
    pushSys v s = .error (.alignmentError (low20 (s.reg 15#5 - 4#32)) 4) (movedTo s (s.reg 15#5 - 4#32)) := by
  have hal : aligned (addrOf (s.reg stackReg - 4#32)) 4 = false := by
    rw [aligned_sub_four, addrOf_eq_low20]
    exact (aligned_eq_false_iff _ 4).2 h
  rw [pushSys_eq, memWriteWordSys_eq, hal, addrOf_eq_low20]
  rfl

/-- The entry without the stack switch, on an aligned stack: two words below R15, then the transfer. -/
theorem enterSupervisor_false {s : State} (h : (low20 (s.reg 15#5)).toNat % 4 = 0) (entry : Word) :
    enterSupervisor false entry s = transferTo (low20 entry) (entered s (s.reg 15#5) [s.ms, zext s.pc]) := by
  have hal : aligned (addrOf (s.reg stackReg)) 4 = true := by
    rw [addrOf_eq_low20]
    exact (aligned_eq_true_iff _ 4).2 h
  have h8 : low20 (s.reg 15#5 - 8#32) = low20 (s.reg 15#5 - 4#32 - 4#32) := congrArg low20 (sub_four_sub _ 1).symm
  rw [enterSupervisor_keep entry hal]
  simp only [addrOf_eq_low20, h8]
  rfl

/-- The entry without the stack switch, on a misaligned stack. -/
theorem enterSupervisor_false_misaligned {s : State} (h : (low20 (s.reg 15#5)).toNat % 4 ≠ 0) (entry : Word) :
    enterSupervisor false entry s =
      .error (.alignmentError (low20 (s.reg 15#5 - 4#32)) 4) (movedTo s (s.reg 15#5 - 4#32)) := by
  have hpush : enterSupervisor false entry s = (pushSys s.ms >>= fun _ => readPc >>= fun back =>
      pushSys (wordOf back) >>= fun _ => setSupervisor >>= fun _ => transferTo (addrOf entry)) s := rfl
  rw [hpush]
  exact Act.bind_error (pushSys_misaligned h s.ms)

/-- The state after the stack switch: R15 is on the supervisor stack and its old value is pushed there. -/
def switched (s : State) : State :=
  (movedTo s (zext s.ssp - 4#32)).setMem (s.mem.writeWord (low20 (zext s.ssp - 4#32)) (s.reg 15#5))

theorem sp_switched (s : State) : (switched s).reg 15#5 = zext s.ssp - 4#32 := reg_movedTo s _ 15#5

/-- The stack switch, to an aligned stack. -/
theorem switchStack_aligned {s : State} (h : s.ssp.toNat % 4 = 0) : switchStack s = .ok () (switched s) := by
  have hal : aligned (addrOf (wordOf s.ssp - 4#32)) 4 = true := by
    rw [aligned_sub_four, addrOf_wordOf]
    exact (aligned_eq_true_iff _ 4).2 h
  rw [switchStack_eq, memWriteWordSys_eq, hal, addrOf_eq_low20]
  rfl

/-- The stack switch, to a misaligned stack. -/
theorem switchStack_misaligned {s : State} (h : s.ssp.toNat % 4 ≠ 0) :
    switchStack s =
      .error (.alignmentError (low20 (zext s.ssp - 4#32)) 4) (movedTo s (zext s.ssp - 4#32)) := by
  have hal : aligned (addrOf (wordOf s.ssp - 4#32)) 4 = false := by
    rw [aligned_sub_four, addrOf_wordOf]
    exact (aligned_eq_false_iff _ 4).2 h
  rw [switchStack_eq, memWriteWordSys_eq, hal, addrOf_eq_low20]
  rfl

/-- The entry with the stack switch, on an aligned supervisor stack: three words below it, then the transfer. -/
theorem enterSupervisor_true {s : State} (h : s.ssp.toNat % 4 = 0) (entry : Word) :
    enterSupervisor true entry s =
      transferTo (low20 entry) (entered s (zext s.ssp) [s.reg 15#5, s.ms, zext s.pc]) := by
  have hal : (low20 ((switched s).reg 15#5)).toNat % 4 = 0 := by
    rw [sp_switched, ← addrOf_eq_low20, ← aligned_eq_true_iff, aligned_sub_four, aligned_eq_true_iff, addrOf_eq_low20,
      low20_zext]
    exact h
  rw [enterSupervisor_switch, Act.bind_ok (switchStack_aligned h), enterSupervisor_false hal, sp_switched,
    ← entered_cons s]
  rfl

/-- The entry with the stack switch, on a misaligned supervisor stack. -/
theorem enterSupervisor_true_misaligned {s : State} (h : s.ssp.toNat % 4 ≠ 0) (entry : Word) :
    enterSupervisor true entry s =
      .error (.alignmentError (low20 (zext s.ssp - 4#32)) 4) (movedTo s (zext s.ssp - 4#32)) := by
  rw [enterSupervisor_switch]
  exact Act.bind_error (switchStack_misaligned h)

/-- An action that stores a frame and then transfers is an entry through a table entry. -/
theorem entersThrough_of_act {s : State} {act : Act Unit} {top : Word} {words : List Word} {handler : Addr}
    (hlen : 4 * words.length ≤ 2 ^ 20)
    (hok : (low20 top).toNat % 4 = 0 → act s = transferTo handler (entered s top words))
    (herror : (low20 top).toNat % 4 ≠ 0 →
      act s = .error (.alignmentError (low20 (top - 4#32)) 4) (movedTo s (top - 4#32))) :
    entersThrough s (perform act s) top words handler := by
  have hafter (ha : (low20 top).toNat % 4 = 0) :
      perform act s = perform (transferTo handler) (entered s top words) := by
    rw [perform, hok ha, perform]
  exact ⟨fun ha hh => ⟨_, (hafter ha).trans (perform_transferTo_aligned hh _), entersMode_entered s top hlen _, rfl⟩,
    fun ha hh => ⟨_, (hafter ha).trans (perform_transferTo_misaligned hh _), entersMode_entered s top hlen s.pc, rfl⟩,
    fun ha => perform_error (herror ha)⟩

/-- The entry from user mode. -/
theorem entersThrough_enterSupervisor_true (s : State) (entry : Word) :
    entersThrough s (perform (enterSupervisor true entry) s) (zext s.ssp) [s.reg 15#5, s.ms, zext s.pc]
      (low20 entry) := by
  refine entersThrough_of_act (by simp) (fun ha => ?_) (fun ha => ?_) <;> rw [low20_zext] at ha
  · exact enterSupervisor_true ha entry
  · exact enterSupervisor_true_misaligned ha entry

/-- The entry from supervisor mode. -/
theorem entersThrough_enterSupervisor_false (s : State) (entry : Word) :
    entersThrough s (perform (enterSupervisor false entry) s) (s.reg 15#5) [s.ms, zext s.pc] (low20 entry) :=
  entersThrough_of_act (by simp) (fun ha => enterSupervisor_false ha entry)
    fun ha => enterSupervisor_false_misaligned ha entry

/-! ## System calls -/

/-- The unchecked read of a table entry. -/
theorem memReadWordSys_ok {a : Addr} (h : aligned a 4 = true) (s : State) :
    memReadWordSys a s = .ok (wordAt s a) s := by
  rw [memReadWordSys_eq, h]
  rfl

/-- SCL reads its table entry and looks at the enable bit first (R160). -/
theorem exec_scl (n : BitVec 6) (s : State) :
    exec (.scl n) s = perform (require ((wordAt s (sctAddr n)).getLsbD 31) (.sctDisabled n) >>= fun _ =>
      enterSupervisor true (wordAt s (sctAddr n))) s :=
  perform_bind_ok (memReadWordSys_ok (aligned_sctAddr n) s)

/-- SCL through a disabled entry. -/
theorem exec_scl_disabled {n : BitVec 6} {s : State} (h : (wordAt s (sctAddr n)).getLsbD 31 = false) :
    exec (.scl n) s = .next (raised s (.sctDisabled n)) := by
  rw [exec_scl, h]
  exact perform_error (Act.bind_error rfl)

/-- SCL through an enabled entry. -/
theorem exec_scl_enabled {n : BitVec 6} {s : State} (h : (wordAt s (sctAddr n)).getLsbD 31 = true) :
    exec (.scl n) s = perform (enterSupervisor true (wordAt s (sctAddr n))) s := by
  rw [exec_scl, h]
  exact perform_bind_ok rfl

/-- The word of SCL (R160). -/
theorem isWord_scl (imm6 : BitVec 6) : isWord (0x44000000#32 ||| place imm6 0) (.scl imm6) := by
  refine isWord_of_encode rfl ?_
  simp only [encode, pack_eq_place, place_append, place_zero, BitVec.or_zero]
  rfl

/-- Settles O16: the enable bit, then the entry with the stack switch. -/
theorem systemCallEntry : Obligations.SystemCallEntry := by
  refine fun imm6 => ⟨isWord_scl imm6, fun s => ⟨exec_scl_disabled, fun henabled => ?_⟩⟩
  have hexec := exec_scl_enabled (n := imm6) henabled
  rw [hexec]
  exact entersThrough_enterSupervisor_true s _

/-! ## Returns from a handler -/

/-- The machine status register RETI loads, from the second word of the frame. -/
def returnedMs (s : State) : Word := wordAt s (low20 (s.reg 15#5 + 4#32))

/-- Where RETI leaves R15: above the two words popped, or at the third word's value on a return to user mode. -/
def returnedSp (s : State) : Word :=
  if (returnedMs s).getLsbD 16 then s.reg 15#5 + 8#32 else wordAt s (low20 (s.reg 15#5 + 8#32))

/-- The state after RETI where no error is raised. -/
def returned (s : State) : State :=
  { movedTo s (returnedSp s) with pc := low20 (wordAt s (low20 (s.reg 15#5))), ms := returnedMs s }

/-- RETI in supervisor mode is the return behind its privilege check. -/
theorem exec_reti {s : State} (hs : s.ms.getLsbD 16 = true) : exec .reti s = perform returnFromHandler s :=
  perform_privCheck_bind hs _

/-- RETI on a misaligned stack. -/
theorem exec_reti_misaligned {s : State} (hs : s.ms.getLsbD 16 = true) (ha : (low20 (s.reg 15#5)).toNat % 4 ≠ 0) :
    exec .reti s = .next (raised s (.alignmentError (low20 (s.reg 15#5)) 4)) := by
  rw [exec_reti hs]
  exact perform_error (Act.bind_error (pop_misaligned ha))

/-- RETI behind its first pop. -/
theorem exec_reti_popped {s : State} (hs : s.ms.getLsbD 16 = true) (ha : (low20 (s.reg 15#5)).toNat % 4 = 0) :
    exec .reti s = perform (transferTo (low20 (wordAt s (low20 (s.reg 15#5)))) >>= fun _ => pop >>= fun image =>
      writeMs image >>= fun _ => restoreUserStack) (movedTo s (s.reg 15#5 + 4#32)) := by
  rw [exec_reti hs, returnFromHandler, perform_bind_ok (pop_eq_movedTo ha (.inl hs)), addrOf_eq_low20]

/-- RETI to a misaligned address. -/
theorem exec_reti_misaligned_target {s : State} (hs : s.ms.getLsbD 16 = true)
    (ha : (low20 (s.reg 15#5)).toNat % 4 = 0) (hback : (low20 (wordAt s (low20 (s.reg 15#5)))).toNat % 4 ≠ 0) :
    exec .reti s = .next (raised (movedTo s (s.reg 15#5 + 4#32))
      (.alignmentError (low20 (wordAt s (low20 (s.reg 15#5)))) 4)) := by
  rw [exec_reti_popped hs ha]
  refine perform_error (Act.bind_error ?_)
  rw [transferTo_eq, (aligned_eq_false_iff _ 4).2 hback]
  rfl

/-- A word further up keeps its place in a word. -/
theorem low20_add_four_mod {v : Word} (h : (low20 v).toNat % 4 = 0) : (low20 (v + 4#32)).toNat % 4 = 0 := by
  rw [← addrOf_eq_low20, ← aligned_eq_true_iff] at h ⊢
  rw [aligned_add_four, h]

theorem add_four_add_four (v : Word) : v + 4#32 + 4#32 = v + 8#32 := by
  bv_omega

/-- The state after the first pop of RETI and its transfer. -/
def transferred (s : State) : State :=
  (movedTo s (s.reg 15#5 + 4#32)).setPc (low20 (wordAt s (low20 (s.reg 15#5))))

theorem sp_transferred (s : State) : (transferred s).reg 15#5 = s.reg 15#5 + 4#32 :=
  reg_movedTo s (s.reg 15#5 + 4#32) 15#5

/-- The state after both pops of RETI, with `ms` loaded. -/
def reloaded (s : State) : State := (movedTo (transferred s) (s.reg 15#5 + 8#32)).setMs (returnedMs s)

theorem sp_reloaded (s : State) : (reloaded s).reg 15#5 = s.reg 15#5 + 8#32 :=
  reg_movedTo (transferred s) (s.reg 15#5 + 8#32) 15#5

/-- Where R15 then goes is where RETI leaves it. -/
theorem movedTo_reloaded (s : State) : movedTo (reloaded s) (returnedSp s) = returned s := by
  simp only [movedTo, reloaded, transferred, returned, State.setMs, State.setPc, Vector.set_set]

/-- The second pop of RETI. -/
theorem pop_transferred {s : State} (hs : s.ms.getLsbD 16 = true) (ha : (low20 (s.reg 15#5)).toNat % 4 = 0) :
    pop (transferred s) = .ok (returnedMs s) (movedTo (transferred s) (s.reg 15#5 + 8#32)) := by
  have hal : (low20 ((transferred s).reg 15#5)).toNat % 4 = 0 := by
    rw [sp_transferred]
    exact low20_add_four_mod ha
  rw [pop_eq_movedTo hal (.inl hs), sp_transferred, add_four_add_four]
  rfl

/-- RETI behind both its pops. -/
theorem exec_reti_reloaded {s : State} (hs : s.ms.getLsbD 16 = true) (ha : (low20 (s.reg 15#5)).toNat % 4 = 0)
    (hback : (low20 (wordAt s (low20 (s.reg 15#5)))).toNat % 4 = 0) :
    exec .reti s = perform restoreUserStack (reloaded s) := by
  have htransfer : transferTo (low20 (wordAt s (low20 (s.reg 15#5)))) (movedTo s (s.reg 15#5 + 4#32)) =
      .ok () (transferred s) := by
    rw [transferTo_eq, (aligned_eq_true_iff _ 4).2 hback]
    rfl
  rw [exec_reti_popped hs ha, perform_bind_ok htransfer, perform_bind_ok (pop_transferred hs ha),
    perform_bind_ok (writeMs_apply _ _)]
  rfl

/-- Back in supervisor mode R15 stays where the pops left it. -/
theorem restoreUserStack_supervisor {s : State} (hs : s.ms.getLsbD 16 = true) : restoreUserStack s = .ok () s := by
  rw [restoreUserStack, Act.bind_ok (readMs_apply s), modeIndicator, if_pos hs]
  rfl

/-- Back in user mode R15 takes the word it points at. -/
theorem restoreUserStack_user {s : State} (hs : s.ms.getLsbD 16 = false) (ha : (low20 (s.reg 15#5)).toNat % 4 = 0) :
    restoreUserStack s = .ok () (movedTo s (wordAt s (low20 (s.reg 15#5)))) := by
  have hal : aligned (low20 (s.reg 15#5)) 4 = true := (aligned_eq_true_iff _ 4).2 ha
  rw [restoreUserStack, Act.bind_ok (readMs_apply s), modeIndicator, if_neg (Bool.not_eq_true _ ▸ hs),
    Act.bind_ok (readReg_apply _ s), addrOf_eq_low20, Act.bind_ok (memReadWordSys_ok hal s)]
  rfl

/-- RETI on an aligned stack to an aligned address. -/
theorem exec_reti_returned {s : State} (hs : s.ms.getLsbD 16 = true) (ha : (low20 (s.reg 15#5)).toNat % 4 = 0)
    (hback : (low20 (wordAt s (low20 (s.reg 15#5)))).toNat % 4 = 0) : exec .reti s = .next (returned s) := by
  rw [exec_reti_reloaded hs ha hback, ← movedTo_reloaded]
  cases hmode : (returnedMs s).getLsbD 16 with
  | true =>
    have hsp : returnedSp s = s.reg 15#5 + 8#32 := if_pos hmode
    have hstay : movedTo (reloaded s) (s.reg 15#5 + 8#32) = reloaded s := by
      simp only [movedTo, reloaded, State.setMs, Vector.set_set]
    rw [perform_ok (restoreUserStack_supervisor (s := reloaded s) hmode), hsp, hstay]
  | false =>
    have hsp : returnedSp s = wordAt s (low20 (s.reg 15#5 + 8#32)) := if_neg (Bool.not_eq_true _ ▸ hmode)
    have hal : (low20 ((reloaded s).reg 15#5)).toNat % 4 = 0 := by
      rw [sp_reloaded, ← add_four_add_four]
      exact low20_add_four_mod (low20_add_four_mod ha)
    rw [perform_ok (restoreUserStack_user (s := reloaded s) hmode hal), sp_reloaded, hsp]
    rfl

/-- What RETI leaves as it was. -/
theorem returned_frame (s : State) :
    keepsRegs s (returned s) [15#5] ∧ keepsMemory s (returned s) ∧ keepsSystem s (returned s) ∧
      keepsDevices s (returned s) := by
  refine ⟨fun r hr => ?_, fun _ => rfl, ⟨rfl, rfl, rfl, rfl, rfl⟩, rfl, rfl, rfl, rfl⟩
  exact (reg_movedTo s (returnedSp s) r).trans (if_neg (List.ne_of_not_mem_cons hr))

theorem sp_returned (s : State) : (returned s).reg 15#5 = returnedSp s := reg_movedTo s (returnedSp s) 15#5

/-- Settles O18, case by case. -/
theorem handlerReturn : Obligations.HandlerReturn :=
  ⟨isWord_of_encode rfl (by decide), fun s => ⟨fun hs => exec_privileged_user rfl hs, fun hs =>
    ⟨exec_reti_misaligned hs, exec_reti_misaligned_target hs, fun ha hback =>
      ⟨returned s, exec_reti_returned hs ha hback, rfl, rfl, sp_returned s, returned_frame s⟩⟩⟩⟩

end Sys2Proof.Machine
end

section
/-! An entry into supervisor mode and its return (60_exceptions.md R253, R264): RETI on the frame an entry has left puts
back all that the entry changed. And the only way out of supervisor mode (R250). -/

namespace Sys2Proof.Machine
open Laws

/-! ## A return to where an entry came from -/

/-- In supervisor mode, with the frame of an entry from `s` on the stack: its three words are those of `s`, of which the
third is R15 itself on a return to supervisor mode. -/
structure Resumable (s t : State) : Prop where
  mode : t.ms.getLsbD 16 = true
  aligned : (low20 (t.reg 15#5)).toNat % 4 = 0
  back : low20 (wordAt t (low20 (t.reg 15#5))) = s.pc
  image : returnedMs t = s.ms
  sp : returnedSp t = s.reg 15#5

/-- RETI resumes after an entry: the machine is as it was before it but for the bytes of the frame. -/
theorem Resumable.exec_reti {s t : State} {top : Word} {words : List Word} (h : Resumable s t)
    (hpc : s.pc.toNat % 4 = 0) (henters : entersMode s t top words) :
    ∃ u, exec .reti t = .next u ∧ u.pc = s.pc ∧ u.ms = s.ms ∧ keepsRegs s u [] ∧ keepsSystem s u ∧ keepsDevices s u ∧
      keepsMemoryBut s u (low20 (top - BitVec.ofNat 32 (4 * words.length))) (4 * words.length) := by
  obtain ⟨⟨-, hregs, -, hmem⟩, -, hsystem, hdevices⟩ := henters
  obtain ⟨hregs', -⟩ := returned_frame t
  refine ⟨returned t, exec_reti_returned h.mode h.aligned (h.back ▸ hpc), h.back, h.image, fun r _ => ?_, hsystem,
    hdevices, hmem⟩
  by_cases hr : r = 15#5
  · rw [hr, sp_returned, h.sp]
  · have hlist : r ∉ [15#5] := by simpa using hr
    exact (hregs' r hlist).trans (hregs r hlist)

/-- A stack pointer keeps its place in a word when words are pushed. -/
theorem low20_sub_mod {v : Word} (n : Nat) (h : (low20 v).toNat % 4 = 0) :
    (low20 (v - BitVec.ofNat 32 (4 * n))).toNat % 4 = 0 := by
  rw [low20_sub, low20_ofNat, BitVec.toNat_sub, BitVec.toNat_ofNat]
  omega

/-- An entry sets the mode. -/
theorem entersMode_mode {s t : State} {top : Word} {words : List Word} (h : entersMode s t top words) :
    t.ms.getLsbD 16 = true := by
  obtain ⟨-, hms, -⟩ := h
  simp [hms 16]

/-- The frame of an entry from user mode. -/
theorem resumable_of_user {s t : State} (hm : s.mem.wf = true) (hs : s.ms.getLsbD 16 = false)
    (hssp : s.ssp.toNat % 4 = 0) (h : entersMode s t (zext s.ssp) [s.reg 15#5, s.ms, zext s.pc]) : Resumable s t := by
  have hmode := entersMode_mode h
  obtain ⟨⟨hsp, -, hwords, -⟩, -⟩ := h
  have hsp12 : t.reg 15#5 = zext s.ssp - 12#32 := hsp
  have h4 : t.reg 15#5 + 4#32 = zext s.ssp - 8#32 := by rw [hsp12]; bv_omega
  have h8 : t.reg 15#5 + 8#32 = zext s.ssp - 4#32 := by rw [hsp12]; bv_omega
  have hr15 : wordAt t (low20 (zext s.ssp - 4#32)) = s.reg 15#5 := hwords hm 0 (by simp)
  have himage : wordAt t (low20 (zext s.ssp - 8#32)) = s.ms := hwords hm 1 (by simp)
  have hback : wordAt t (low20 (zext s.ssp - 12#32)) = zext s.pc := hwords hm 2 (by simp)
  have hms : returnedMs t = s.ms := by rw [returnedMs, h4, himage]
  exact {
    mode := hmode
    aligned := by rw [hsp]; exact low20_sub_mod 3 (by rw [low20_zext]; exact hssp)
    back := by rw [hsp12, hback, low20_zext]
    image := hms
    sp := by rw [returnedSp, hms, hs, h8, hr15]; rfl }

/-- The frame of an entry from supervisor mode. -/
theorem resumable_of_supervisor {s t : State} (hm : s.mem.wf = true) (hs : s.ms.getLsbD 16 = true)
    (ha : (low20 (s.reg 15#5)).toNat % 4 = 0) (h : entersMode s t (s.reg 15#5) [s.ms, zext s.pc]) : Resumable s t := by
  have hmode := entersMode_mode h
  obtain ⟨⟨hsp, -, hwords, -⟩, -⟩ := h
  have hsp8 : t.reg 15#5 = s.reg 15#5 - 8#32 := hsp
  have h4 : t.reg 15#5 + 4#32 = s.reg 15#5 - 4#32 := by rw [hsp8]; bv_omega
  have h8 : t.reg 15#5 + 8#32 = s.reg 15#5 := by rw [hsp8, BitVec.sub_add_cancel]
  have himage : wordAt t (low20 (s.reg 15#5 - 4#32)) = s.ms := hwords hm 0 (by simp)
  have hback : wordAt t (low20 (s.reg 15#5 - 8#32)) = zext s.pc := hwords hm 1 (by simp)
  have hms : returnedMs t = s.ms := by rw [returnedMs, h4, himage]
  exact {
    mode := hmode
    aligned := by rw [hsp]; exact low20_sub_mod 2 ha
    back := by rw [hsp8, hback, low20_zext]
    image := hms
    sp := by rw [returnedSp, hms, hs, h8]; rfl }

/-- Settles O20: the entry leaves a frame RETI resumes from. -/
theorem systemCallThenReturn : Obligations.SystemCallThenReturn := by
  intro s t imm6 hm hs hpc hssp henabled hhandler hexec
  obtain ⟨hok, -, -⟩ := entersThrough_enterSupervisor_true s (wordAt s (sctAddr imm6))
  obtain ⟨u, hu, henters, -⟩ := hok (by rw [low20_zext]; exact hssp) hhandler
  obtain rfl : u = t := Host.Outcome.next.inj (hu.symm.trans ((exec_scl_enabled henabled).symm.trans hexec))
  have hresume := resumable_of_user hm hs hssp henters
  have hreturn := hresume.exec_reti hpc henters
  exact ⟨hresume.mode, hreturn⟩

/-! ## Interrupts -/

/-- The service of a vector reads its table entry; an enabled one is an entry, with the stack switch from user mode
alone (R255). -/
theorem serviceInterrupt_enabled {v : Vect} {s : State} (h : (wordAt s (ivtAddr v)).getLsbD 31 = true) :
    perform (serviceInterrupt v) s =
      perform (enterSupervisor (!s.ms.getLsbD 16) (wordAt s (ivtAddr v))) s := by
  rw [serviceInterrupt, perform_bind_ok (memReadWordSys_ok (aligned_ivtAddr v) s), perform_bind_ok (readMs_apply s),
    entryEnabled, if_pos h, modeIndicator]

/-- A step of a running machine with one vector pending and nothing to arrive is the service of the vector. -/
theorem step_eq_serviceInterrupt {s : State} {v : Vect} (hrun : s.Running) (harr : s.arrivals = [])
    (hp : s.pending = [v]) : step s = perform (serviceInterrupt v) (s.setPending []) := by
  have hterminal : s.terminal = none := (State.terminal_eq_none_iff s).2 hrun
  simp only [step, hterminal, environment, harr, cycle, takePending, hp]

/-- Settles O21: in either mode the service leaves a frame RETI resumes from. -/
theorem interruptThenReturn : Obligations.InterruptThenReturn := by
  intro s t v hrun harr hp hm hpc hstack henabled hhandler hstep
  have hservice : perform (enterSupervisor (!s.ms.getLsbD 16) (wordAt s (ivtAddr v))) (s.setPending []) = .next t := by
    rw [← hstep, step_eq_serviceInterrupt hrun harr hp]
    exact (serviceInterrupt_enabled (s := s.setPending []) henabled).symm
  obtain ⟨hfault, hhalted⟩ := hrun
  cases hmode : s.ms.getLsbD 16 with
  | true =>
    rw [hmode] at hservice
    simp only [hmode, if_true] at hstack ⊢
    obtain ⟨hok, -, -⟩ := entersThrough_enterSupervisor_false (s.setPending []) (wordAt s (ivtAddr v))
    obtain ⟨u, hu, henters, -⟩ := hok hstack hhandler
    obtain rfl : u = t := Host.Outcome.next.inj (hu.symm.trans hservice)
    have hresume := resumable_of_supervisor (s := s.setPending []) hm hmode hstack henters
    obtain ⟨w, hreti, hpc', hms', hregs, ⟨hssp, hpending, hhalted', hfault', -⟩, hrest⟩ := hresume.exec_reti hpc henters
    exact ⟨w, hreti, hpc', hms', hregs, hssp, hpending, hhalted'.trans hhalted, hfault'.trans hfault, hrest⟩
  | false =>
    rw [hmode] at hservice
    simp only [hmode, Bool.false_eq_true, if_false] at hstack ⊢
    obtain ⟨hok, -, -⟩ := entersThrough_enterSupervisor_true (s.setPending []) (wordAt s (ivtAddr v))
    obtain ⟨u, hu, henters, -⟩ := hok (by rw [low20_zext]; exact hstack) hhandler
    obtain rfl : u = t := Host.Outcome.next.inj (hu.symm.trans hservice)
    have hresume := resumable_of_user (s := s.setPending []) hm hmode hstack henters
    obtain ⟨w, hreti, hpc', hms', hregs, ⟨hssp, hpending, hhalted', hfault', -⟩, hrest⟩ := hresume.exec_reti hpc henters
    exact ⟨w, hreti, hpc', hms', hregs, hssp, hpending, hhalted'.trans hhalted, hfault'.trans hfault, hrest⟩

/-! ## Leaving supervisor mode -/

/-- No update of an instruction but RETI leaves supervisor mode. -/
theorem Updates.supervisor {i : Instr} (hi : i ≠ .reti) {s t : State} (h : Updates i s t) (hs : s.supervisor = true) :
    t.supervisor = true := by
  induction h with
  | refl => exact hs
  | tail _ hu ih =>
    cases hu with
    | flags x => exact (modeIndicator_withFlagsOf x _).trans ih
    | mode => exact modeIndicator_withSupervisor _
    | image v hv => exact absurd hv hi
    | _ => exact ih

/-- RETI in supervisor mode raises an error and keeps `ms`, or returns. -/
theorem exec_reti_cases {s t : State} (hs : s.ms.getLsbD 16 = true) (h : exec .reti s = .next t) :
    (t.fault ≠ none ∧ t.ms = s.ms) ∨ t = returned s := by
  by_cases ha : (low20 (s.reg 15#5)).toNat % 4 = 0
  · by_cases hback : (low20 (wordAt s (low20 (s.reg 15#5)))).toNat % 4 = 0
    · rw [exec_reti_returned hs ha hback] at h
      cases h
      exact .inr rfl
    · rw [exec_reti_misaligned_target hs ha hback] at h
      cases h
      exact .inl ⟨by simp [raised], rfl⟩
  · rw [exec_reti_misaligned hs ha] at h
    cases h
    exact .inl ⟨by simp [raised], rfl⟩

theorem environment_reg (s : State) (r : Reg) : (environment s).reg r = s.reg r :=
  environment_preserves (f := fun s => s.reg r) (fun _ _ _ _ => rfl) s

/-- What the environment and the advance of `pc` leave RETI to load. -/
theorem returnedMs_environment (s : State) (a : Addr) :
    returnedMs ((environment s).setPc a) = wordAt s (low20 (s.reg 15#5 + 4#32)) := by
  rw [returnedMs, State.reg_setPc, environment_reg, wordAt, State.setPc_mem, environment_mem, wordAt]

/-- Settles O50: of all that a step can do, only RETI leaves supervisor mode. -/
theorem leavingSupervisorMode : Obligations.LeavingSupervisorMode := by
  refine ⟨fun s t h hs ht => ?_, fun s t hs h hfault => ?_⟩
  · have hmode : t.ms ≠ s.ms := fun he => by rw [he, hs] at ht; cases ht
    rcases step_next_cases h with rfl | ⟨v, vs, d, -, hv⟩ | ⟨hp, ⟨e, rfl⟩ | ⟨e, rfl⟩ | ⟨i, hw, hx⟩⟩
    · exact absurd (environment_ms s) hmode
    · have hkeeps : t.supervisor = true := by
        refine Updates.supervisor (i := .scl 0) nofun (answers_perform (only_serviceInterrupt v ⟨0, rfl⟩) t hv) ?_
        show modeIndicator (environment s).ms = true
        rw [environment_ms]
        exact hs
      exact absurd hkeeps (Bool.eq_false_iff.1 ht)
    · exact absurd (environment_ms s) hmode
    · exact absurd (environment_ms s) hmode
    · have hs' : ((environment s).setPc (s.pc + 4#20)).ms.getLsbD 16 = true := by
        rw [State.setPc_ms, environment_ms]
        exact hs
      obtain rfl : i = .reti := by
        by_contra hi
        exact absurd ((exec_updates hx).supervisor hi hs') (Bool.eq_false_iff.1 ht)
      rcases exec_reti_cases hs' hx with ⟨-, hms⟩ | rfl
      · exact absurd (hms.trans (environment_ms s)) hmode
      · have hms := returnedMs_environment s (s.pc + 4#20)
        exact ⟨hp, hw, isWord_of_encode rfl (by decide), hms, hms ▸ ht⟩
  · rcases exec_reti_cases hs h with ⟨hne, -⟩ | rfl
    · exact absurd hfault hne
    · rfl

end Sys2Proof.Machine
end

section
/-! The byte input device behind ports 8 and 9 (60_exceptions.md R275, R276), and the halted state (45_system_io.md
R229; 70_reset_and_hazards.md R301). -/

namespace Sys2Proof.Machine
open Laws

/-! ## Byte input -/

theorem portRead_eight (s : State) :
    portRead 8#8 s = .ok (countWord (Config.drawWord s.draws) s.inQueue) { s with draws := s.draws + 1 } := rfl

theorem portRead_nine (s : State) : portRead 9#8 s = takeInput s := rfl

/-- The count is the queue's length, up to the bound of the queue. -/
theorem toNat_low_countWord (free : Word) {q : List Byte} (hq : q.length ≤ 65535) :
    ((countWord free q).extractLsb' 0 16).toNat = q.length := by
  rw [countWord, extract_pack, BitVec.extractLsb'_append_eq_right, BitVec.toNat_ofNat]
  exact Nat.mod_eq_of_lt (by omega)

/-- The byte read is in bits 7:0. -/
theorem low_inputWord (free : Word) (b : Byte) : (inputWord free b).extractLsb' 0 8 = b := by
  rw [inputWord, extract_pack, BitVec.extractLsb'_append_eq_right]

/-- IN in supervisor mode from a port whose read reaches the input queue and the count of draws alone. -/
theorem inputs_of_portRead {i : Instr} {dr : Reg} {p : Port} {s : State} {v : Word} {q : List Byte} {d : Nat}
    (hs : s.ms.getLsbD 16 = true) (hi : readsPort i dr p s)
    (hread : portRead p s = .ok v { s with inQueue := q, draws := d }) :
    ∃ t, exec i s = .next t ∧ inputsTo s t dr ∧ t.clock = s.clock ∧ t.inQueue = q ∧ t.reg dr = v :=
  ⟨_, exec_readsPort hs hi hread, inputsTo_writeResult s q s.clock d dr v, rfl, rfl,
    (State.reg_writeResult _ dr dr v).trans (if_pos rfl)⟩

/-- Settles O34: port 8 gives the count word, and port 9 what it takes off the queue. -/
theorem readByteInput : Obligations.ReadByteInput := by
  refine fun i dr s hs => ⟨fun hi hq => ?_, fun hi => ?_⟩
  · obtain ⟨t, ht, hinputs, hclock, hqueue, hreg⟩ := inputs_of_portRead hs hi (portRead_eight s)
    exact ⟨t, ht, hinputs, hclock, hqueue, by rw [hreg, toNat_low_countWord _ hq]⟩
  · cases hq : s.inQueue with
    | nil =>
      have hread : portRead 9#8 s = .ok (Config.drawWord s.draws) { s with inQueue := [], draws := s.draws + 1 } := by
        rw [portRead_nine, takeInput_nil hq, ← hq]
        rfl
      obtain ⟨t, ht, hinputs, hclock, hqueue, -⟩ := inputs_of_portRead hs hi hread
      exact ⟨t, ht, hinputs, hclock, fun _ => hqueue, nofun⟩
    | cons b rest =>
      obtain ⟨t, ht, hinputs, hclock, hqueue, hreg⟩ :=
        inputs_of_portRead hs hi ((portRead_nine s).trans (takeInput_cons hq))
      refine ⟨t, ht, hinputs, hclock, nofun, ?_⟩
      rintro _ _ ⟨rfl, rfl⟩
      exact ⟨by rw [hreg, low_inputWord], hqueue⟩

/-! ## The halted state -/

/-- Whatever the environment does at a boundary, the machine only receives. -/
theorem onlyReceives_environment (s : State) : onlyReceives s (environment s) := by
  rcases environment_cases s with ⟨harr, h⟩ | ⟨bs, later, harr, ⟨-, h⟩ | ⟨-, -, h⟩⟩
  · rw [h, onlyReceives, harr]
    refine ⟨?_, ⟨[], List.append_nil _⟩, fun _ hv => hv⟩
    rw [List.tail_nil, ← harr]
  · rw [h, onlyReceives, harr]
    exact ⟨rfl, ⟨[], List.append_nil _⟩, fun _ hv => hv⟩
  · rw [h, onlyReceives, harr]
    exact ⟨rfl, ⟨_, rfl⟩, fun v hv => (mem_insertVect 8 v _).2 (.inr hv)⟩

/-- A machine halted without an error, with nothing to arrive. -/
theorem step_halted_stop {s : State} (hf : s.fault = none) (hh : s.halted = true) (harr : s.arrivals = []) :
    step s = .fault .halted := by
  simp only [step, State.terminal_of_halted hf hh, harr]

/-- A machine halted without an error, with an event to come. -/
theorem step_halted_receive {s : State} (hf : s.fault = none) (hh : s.halted = true) {bs : List Byte}
    {later : List (List Byte)} (harr : s.arrivals = bs :: later) : step s = .next (environment s) := by
  simp only [step, State.terminal_of_halted hf hh, harr]

/-- Settles O38: past its check HALT sets the halted state, and a step in it is the environment alone. -/
theorem haltStopsTheMachine : Obligations.HaltStopsTheMachine := by
  refine ⟨isWord_of_encode rfl (by decide), fun s => ⟨fun hs => ⟨exec_halt hs, fun hf vs => ?_⟩,
    fun hs => exec_privileged_user rfl hs⟩⟩
  exact ⟨step_halted_stop hf rfl rfl, fun bs later => ⟨_, step_halted_receive hf rfl rfl, onlyReceives_environment _⟩⟩

end Sys2Proof.Machine
end

section
/-! The step of a running machine as the instruction at `pc` (70_reset_and_hazards.md R296, R297). -/

namespace Sys2Proof.Machine

/-- What four bytes decode to, with no byte left over, is the instruction of their word. -/
theorem isWord_of_decode_four {b0 b1 b2 b3 : Byte} {i : Instr} (h : decode [b0, b1, b2, b3] = .ok (i, [])) :
    isWord (wordOfBytes b0 b1 b2 b3) i := by
  rw [decode] at h
  cases hword : decodeWord (wordOfBytes b0 b1 b2 b3) with
  | ok j =>
    rw [hword] at h
    obtain rfl : j = i := (Prod.mk.inj (Except.ok.inj h)).1
    exact hword
  | error r =>
    rw [hword] at h
    cases h

/-- The environment stores nothing. -/
theorem wordAt_environment (s : State) (a : Addr) : wordAt (environment s) a = wordAt s a := by
  rw [wordAt, environment_mem, wordAt]

/-- Settles O43: the environment leaves `pc`, `ms` and memory, so the fetch passes its checks after it as before it, and
the word it reads is the one the four bytes make. -/
theorem stepRunsDecodedInstruction : Obligations.StepRunsDecodedInstruction := by
  intro s i hrun hp hpc hacc hdecode
  have hword : isWord (wordAt s s.pc) i := isWord_of_decode_four hdecode
  have hpc' : (environment s).pc.toNat % 4 = 0 := by rwa [environment_pc]
  have hacc' : accessible (environment s) (environment s).pc := by
    rwa [environment_pc, accessible_congr (environment_ms s)]
  have hword' : isWord (wordAt (environment s) (environment s).pc) i := by
    rwa [wordAt_environment, environment_pc]
  rw [step_eq_runInstruction hrun hp, runInstruction_eq_exec hpc' hacc' hword', environment_pc]
  rfl

end Sys2Proof.Machine
end

section
/-! What an entry into supervisor mode can answer, by SCL or by the service of an interrupt, and what the service of a
pending vector is within a step. -/

namespace Sys2Proof.Machine

/-! ## Entries -/

/-- Everything an entry can answer: supervisor mode entered, with `pc` at the handler or the handler's alignment error
recorded; or the alignment error of the stack with R15 moved. -/
theorem entersThrough_cases {s t : State} {top : Word} {words : List Word} {handler : Addr}
    (h : entersThrough s (.next t) top words handler) :
    (∃ u, entersMode s u top words ∧
      (t = u ∧ u.pc = handler ∧ handler.toNat % 4 = 0 ∨ t = raised u (.alignmentError handler 4) ∧ u.pc = s.pc)) ∨
      t = raised (movedTo s (top - 4#32)) (.alignmentError (low20 (top - 4#32)) 4) := by
  obtain ⟨hok, hhandler, hstack⟩ := h
  by_cases ha : (low20 top).toNat % 4 = 0
  · by_cases hh : handler.toNat % 4 = 0
    · obtain ⟨u, hu, henters, hpc⟩ := hok ha hh
      exact .inl ⟨u, henters, .inl ⟨Host.Outcome.next.inj hu, hpc, hh⟩⟩
    · obtain ⟨u, hu, henters, hpc⟩ := hhandler ha hh
      exact .inl ⟨u, henters, .inr ⟨Host.Outcome.next.inj hu, hpc⟩⟩
  · exact .inr (Host.Outcome.next.inj (hstack ha))

/-- An entry leaves `pc` as it was or at a word-aligned handler. -/
theorem entersThrough_pc {s t : State} {top : Word} {words : List Word} {handler : Addr}
    (h : entersThrough s (.next t) top words handler) : t.pc = s.pc ∨ t.pc.toNat % 4 = 0 := by
  rcases entersThrough_cases h with ⟨u, -, ⟨rfl, hpc, hh⟩ | ⟨rfl, hpc⟩⟩ | rfl
  · exact .inr (hpc ▸ hh)
  · exact .inl hpc
  · exact .inl rfl

/-- Everything SCL can answer: its entry's error, or an entry on the supervisor stack. -/
theorem exec_scl_cases {n : BitVec 6} {s t : State} (h : exec (.scl n) s = .next t) :
    t = raised s (.sctDisabled n) ∨
      entersThrough s (.next t) (zext s.ssp) [s.reg 15#5, s.ms, zext s.pc] (low20 (wordAt s (sctAddr n))) := by
  cases henabled : (wordAt s (sctAddr n)).getLsbD 31 with
  | false => exact .inl (Host.Outcome.next.inj (h.symm.trans (exec_scl_disabled henabled)))
  | true =>
    rw [exec_scl_enabled henabled] at h
    exact .inr (h ▸ entersThrough_enterSupervisor_true s _)

/-! ## The service of a pending vector -/

/-- The service of a vector whose entry is disabled does nothing (60_exceptions.md R255). -/
theorem serviceInterrupt_disabled {v : Vect} {s : State} (h : (wordAt s (ivtAddr v)).getLsbD 31 = false) :
    perform (serviceInterrupt v) s = .next s := by
  rw [serviceInterrupt, perform_bind_ok (memReadWordSys_ok (aligned_ivtAddr v) s), perform_bind_ok (readMs_apply s),
    entryEnabled, h]
  rfl

/-- The service of a vector, by its entry's enable bit and the mode. -/
theorem servesThrough_serviceInterrupt (v : Vect) (s : State) :
    servesThrough s (perform (serviceInterrupt v) s) (wordAt s (ivtAddr v)) := by
  refine ⟨serviceInterrupt_disabled, fun henabled hmode => ?_, fun henabled hmode => ?_⟩ <;>
    rw [serviceInterrupt_enabled henabled, hmode]
  · exact entersThrough_enterSupervisor_true s _
  · exact entersThrough_enterSupervisor_false s _

/-- The stack an interrupt leaves its frame on: the current one in supervisor mode, else the supervisor stack. -/
def serviceTop (s : State) : Word := if s.ms.getLsbD 16 then s.reg 15#5 else zext s.ssp

/-- The frame an interrupt leaves, the first word highest. -/
def serviceFrame (s : State) : List Word :=
  if s.ms.getLsbD 16 then [s.ms, zext s.pc] else [s.reg 15#5, s.ms, zext s.pc]

/-- Everything the service of a vector can answer: nothing done where the entry is disabled, else an entry in the mode
the machine is in. -/
theorem servesThrough_cases {s t : State} {entry : Word} (h : servesThrough s (.next t) entry) :
    entry.getLsbD 31 = false ∧ t = s ∨
      entry.getLsbD 31 = true ∧ entersThrough s (.next t) (serviceTop s) (serviceFrame s) (low20 entry) := by
  obtain ⟨hdisabled, huser, hsupervisor⟩ := h
  cases henabled : entry.getLsbD 31 with
  | false => exact .inl ⟨rfl, Host.Outcome.next.inj (hdisabled henabled)⟩
  | true =>
    refine .inr ⟨rfl, ?_⟩
    cases hmode : s.ms.getLsbD 16 with
    | false =>
      simp only [serviceTop, serviceFrame, hmode, Bool.false_eq_true, if_false]
      exact huser henabled hmode
    | true =>
      simp only [serviceTop, serviceFrame, hmode, if_true]
      exact hsupervisor henabled hmode

/-- The service of a vector leaves `pc` as it was or at a word-aligned handler. -/
theorem serviceInterrupt_pc {v : Vect} {s t : State} (h : perform (serviceInterrupt v) s = .next t) :
    t.pc = s.pc ∨ t.pc.toNat % 4 = 0 := by
  rcases servesThrough_cases (h ▸ servesThrough_serviceInterrupt v s) with ⟨-, rfl⟩ | ⟨-, henters⟩
  · exact .inl rfl
  · exact entersThrough_pc henters

/-- The service of a vector makes no update that SCL may not make. -/
theorem serviceInterrupt_updates {v : Vect} {s t : State} (h : perform (serviceInterrupt v) s = .next t) :
    Updates (.scl 0) s t :=
  answers_perform (only_serviceInterrupt v ⟨0, rfl⟩) t h

/-- The state a pending vector is served in: the environment has acted, the vector is no longer pending, and free values
may have been drawn to choose it. -/
def taken (s : State) (v : Vect) (d : Nat) : State :=
  { environment s with pending := (environment s).pending.erase v, draws := d }

/-- A step of a running machine with vectors pending is the service of one of them. -/
theorem step_eq_service_of_pending {s : State} (hrun : s.Running) (hp : (environment s).pending ≠ []) :
    ∃ v d, v ∈ (environment s).pending ∧ step s = perform (serviceInterrupt v) (taken s v d) := by
  have hterminal : s.terminal = none := (State.terminal_eq_none_iff s).2 hrun
  rcases takePending_cases (environment s) with ⟨hnone, -⟩ | ⟨v, d, hv, htake⟩
  · exact absurd hnone hp
  · exact ⟨v, d, hv, by simp only [step, hterminal, cycle, htake, taken]⟩

/-- A step of a running machine with one vector pending is its service. -/
theorem step_eq_service_of_singleton {s : State} {v : Vect} (hrun : s.Running) (hp : (environment s).pending = [v]) :
    step s = perform (serviceInterrupt v) { environment s with pending := [] } := by
  have hterminal : s.terminal = none := (State.terminal_eq_none_iff s).2 hrun
  simp only [step, hterminal, cycle, takePending, hp]
  rfl

end Sys2Proof.Machine
end

section
/-! The invariant of the machine (10_state.md R26, R36, R39; 92_eei_decisions.md D33): memory, the pending set and the
queue by what the updates of an instruction are, `pc` and `ssp` by the law of each instruction. -/

namespace Sys2Proof.Machine

/-! ## `pc` and memory after an instruction -/

/-- The instruction leaves `pc` as it was or word-aligned, and memory as it was if its rule stores nothing. -/
structure Steady (i : Instr) (s t : State) : Prop where
  pc : t.pc = s.pc ∨ t.pc.toNat % 4 = 0
  bytes : storesNothing i = true → keepsMemory s t

theorem Steady.of_eq {i : Instr} {s t : State} (hpc : t.pc = s.pc) (hmem : keepsMemory s t) : Steady i s t :=
  ⟨.inl hpc, fun _ => hmem⟩

/-- The record of an error, whether or not the stack pointer has moved. -/
theorem Steady.raised_movedTo {i : Instr} (s : State) (v : Word) (e : MachineError) :
    Steady i s (raised (movedTo s v) e) :=
  .of_eq rfl fun _ => rfl

theorem Steady.raised {i : Instr} (s : State) (e : MachineError) : Steady i s (raised s e) := .of_eq rfl fun _ => rfl

/-- An outcome that is known where two checks pass and an error where one fails: the one or the other. -/
theorem next_cases_of_checks {A B : Prop} {Q : State → Prop} {r : Result} {u t : State} {e₁ e₂ : MachineError}
    (hok : A → B → ∃ t, r = .next t ∧ Q t) (h₁ : ¬ A → r = .next (raised u e₁))
    (h₂ : A → ¬ B → r = .next (raised u e₂)) (h : r = .next t) : Q t ∨ ∃ e, t = raised u e := by
  subst h
  by_cases ha : A
  · by_cases hb : B
    · obtain ⟨t', ht, hq⟩ := hok ha hb
      exact .inl (Host.Outcome.next.inj ht ▸ hq)
    · exact .inr ⟨e₂, Host.Outcome.next.inj (h₂ ha hb)⟩
  · exact .inr ⟨e₁, Host.Outcome.next.inj (h₁ ha)⟩

theorem steady_of_loadsResult {i : Instr} {dr : Reg} {n : Nat} {addr : State → Addr} {v : State → Word}
    (hi : loadsResult i dr n addr v) {s t : State} (h : exec i s = .next t) : Steady i s t := by
  obtain ⟨hok, halign, hprotect⟩ := hi s
  obtain ⟨-, -, -, hpc, hmem, -⟩ | ⟨e, rfl⟩ := next_cases_of_checks hok halign hprotect h
  · exact .of_eq hpc hmem
  · exact .raised s e

theorem steady_of_storesRegister {i : Instr} {n : Nat} {addr : State → Addr} {sr : Reg}
    (hi : storesRegister i n addr sr) (hstores : storesNothing i = false) {s t : State} (h : exec i s = .next t) :
    Steady i s t := by
  obtain ⟨hok, halign, hprotect⟩ := hi s
  obtain ⟨-, -, -, hpc, -⟩ | ⟨e, rfl⟩ := next_cases_of_checks hok halign hprotect h
  · exact ⟨.inl hpc, by simp [hstores]⟩
  · exact .raised s e

theorem steady_of_popsValue {i : Instr} {dr : Reg} {n : Nat} {v : State → Word} (hi : popsValue i dr n v)
    {s t : State} (h : exec i s = .next t) : Steady i s t := by
  obtain ⟨hok, halign, hprotect⟩ := hi s
  obtain ⟨-, -, -, -, hpc, hmem, -⟩ | ⟨e, rfl⟩ := next_cases_of_checks hok halign hprotect h
  · exact .of_eq hpc hmem
  · exact .raised s e

theorem steady_of_pushesValue {i : Instr} {v : State → Word} (hi : pushesValue i v)
    (hstores : storesNothing i = false) {s t : State} (h : exec i s = .next t) : Steady i s t := by
  obtain ⟨hok, halign, hprotect⟩ := hi s
  obtain ⟨-, hpc⟩ | ⟨e, rfl⟩ := next_cases_of_checks (fun ha hacc => hok ⟨ha, hacc⟩) halign hprotect h
  · exact ⟨.inl hpc, by simp [hstores]⟩
  · exact .raised_movedTo s _ e

theorem steady_of_calls {i : Instr} {target : State → Addr} (hi : calls i target) (hstores : storesNothing i = false)
    {s t : State} (h : exec i s = .next t) : Steady i s t := by
  obtain ⟨hpush, halign, hprotect⟩ := hi s
  have hok (ha : (low20 (pushedSp s)).toNat % 4 = 0) (hacc : accessible s (low20 (pushedSp s))) :
      ∃ u, exec i s = .next u ∧ (u.pc = s.pc ∨ u.pc.toNat % 4 = 0) := by
    obtain ⟨hgo, hstay⟩ := hpush ⟨ha, hacc⟩
    by_cases htarget : (target (decremented s)).toNat % 4 = 0
    · obtain ⟨u, hu, -, hpc⟩ := hgo htarget
      exact ⟨u, hu, .inr (hpc ▸ htarget)⟩
    · obtain ⟨u, hu, -, hpc⟩ := hstay htarget
      exact ⟨_, hu, .inl hpc⟩
  obtain hpc | ⟨e, rfl⟩ := next_cases_of_checks hok halign hprotect h
  · exact ⟨hpc, by simp [hstores]⟩
  · exact .raised_movedTo s _ e

theorem steady_of_transferTo {i : Instr} {a : Addr} {s t : State} (h : perform (transferTo a) s = .next t) :
    Steady i s t := by
  by_cases ha : a.toNat % 4 = 0
  · rw [perform_transferTo_aligned ha] at h
    cases h
    exact ⟨.inr ha, fun _ _ => rfl⟩
  · rw [perform_transferTo_misaligned ha] at h
    cases h
    exact .raised s _

theorem steady_of_transferIf {i : Instr} {cond : Bool} {a : Addr} {s t : State}
    (h : perform (transferIf cond a) s = .next t) : Steady i s t := by
  cases cond with
  | true => exact steady_of_transferTo h
  | false =>
    rw [perform_transferIf_false rfl] at h
    cases h
    exact .of_eq rfl fun _ => rfl

theorem steady_ret {s t : State} (h : exec .ret s = .next t) : Steady .ret s t := by
  obtain ⟨-, hret⟩ := subroutineReturn
  obtain ⟨hpop, halign, hprotect⟩ := hret s
  have hok (ha : (low20 (s.reg 15#5)).toNat % 4 = 0) (hacc : accessible s (low20 (s.reg 15#5))) :
      ∃ u, exec .ret s = .next u ∧ Steady .ret s u := by
    obtain ⟨hgo, hstay⟩ := hpop ha hacc
    by_cases hback : (low20 (wordAt s (low20 (s.reg 15#5)))).toNat % 4 = 0
    · exact ⟨_, hgo hback, .inr hback, fun _ _ => rfl⟩
    · exact ⟨_, hstay hback, .raised_movedTo s _ _⟩
  obtain hsteady | ⟨e, rfl⟩ := next_cases_of_checks hok halign hprotect h
  · exact hsteady
  · exact .raised s e

theorem steady_reti {s t : State} (hs : s.supervisor = true) (h : exec .reti s = .next t) : Steady .reti s t := by
  by_cases ha : (low20 (s.reg 15#5)).toNat % 4 = 0
  · by_cases hback : (low20 (wordAt s (low20 (s.reg 15#5)))).toNat % 4 = 0
    · rw [exec_reti_returned hs ha hback] at h
      cases h
      exact ⟨.inr hback, fun _ _ => rfl⟩
    · rw [exec_reti_misaligned_target hs ha hback] at h
      cases h
      exact .raised_movedTo s _ _
  · rw [exec_reti_misaligned hs ha] at h
    cases h
    exact .raised s _

theorem steady_of_readsPort {i : Instr} {dr : Reg} {p : Port} {s t : State} (hs : s.supervisor = true)
    (hi : readsPort i dr p s) (h : exec i s = .next t) : Steady i s t := by
  obtain ⟨v, q, c, d, hread, -⟩ := portRead_cases p s
  rw [exec_readsPort hs hi hread] at h
  cases h
  exact .of_eq rfl fun _ => rfl

theorem steady_of_writesPort {i : Instr} {sr : Reg} {p : Port} {s t : State} (hs : s.supervisor = true)
    (hi : writesPort i sr p s) (h : exec i s = .next t) : Steady i s t := by
  rw [(exec_of_writesPort hi).trans (perform_outputTo hs p sr)] at h
  cases h
  split
  · exact .of_eq rfl fun _ => rfl
  · exact .of_eq rfl fun _ => rfl

/-- SSSP in supervisor mode records an error, or writes a word-aligned address to `ssp` and nothing else. -/
theorem setSupervisorStack_cases {a : Addr} {s t : State} (hs : s.supervisor = true)
    (h : perform (setSupervisorStack a) s = .next t) :
    (∃ e, t = raised s e) ∨ a.toNat % 4 = 0 ∧ t = { s with ssp := a } := by
  by_cases ha : a.toNat % 4 = 0
  · rw [perform_setSupervisorStack_aligned hs ha] at h
    exact .inr ⟨ha, (Host.Outcome.next.inj h).symm⟩
  · rw [perform_setSupervisorStack_misaligned hs ha] at h
    exact .inl ⟨_, (Host.Outcome.next.inj h).symm⟩

theorem steady_of_setSupervisorStack {i : Instr} {a : Addr} {s t : State} (hs : s.supervisor = true)
    (h : perform (setSupervisorStack a) s = .next t) : Steady i s t := by
  obtain ⟨e, rfl⟩ | ⟨-, rfl⟩ := setSupervisorStack_cases hs h
  · exact .raised s e
  · exact .of_eq rfl fun _ => rfl

/-- A privileged instruction, from what it does in supervisor mode. -/
theorem steady_of_privileged {i : Instr} {s t : State} (hi : isPrivileged i = true) (h : exec i s = .next t)
    (hsupervisor : s.supervisor = true → Steady i s t) : Steady i s t := by
  cases hs : s.supervisor with
  | true => exact hsupervisor hs
  | false =>
    rw [exec_privileged_user hi hs] at h
    cases h
    exact .raised s _

theorem pushesValue_pushw (sr : Reg) : pushesValue (.pushw sr) fun s => s.reg sr :=
  pushesValue_of_exec_pushFrom (fun v => v) fun _ => rfl

theorem popsValue_popw (dr : Reg) : popsValue (.popw dr) dr 4 fun s => wordAt s (low20 (s.reg 15#5)) :=
  popsValue_of_exec Memory.readWord (fun _ v => v) fun _ => rfl

/-- Every instruction leaves `pc` as it was or word-aligned, and memory as it was if its rule stores nothing: the law of
each instruction says so. -/
theorem exec_steady {i : Instr} {s t : State} (h : exec i s = .next t) : Steady i s t := by
  cases i with
  | addR | addI | subR | subI | mulbi | mulsi | mulwi | mulbu | mulsu | mulwu | neg | cmpR | cmpI
  | andR | andI | orR | orI | not | xorR | xorI | shflR | shflI | shfrzR | shfrzI | shfraR | shfraI
  | cpy | cpyi | cpyu =>
    cases h
    exact .of_eq rfl fun _ => rfl
  | jcA | jcR | jcX => exact steady_of_transferIf h
  | jmpA | jmpR | jmpX => exact steady_of_transferTo h
  | callA a => exact steady_of_calls (calls_callA a) rfl h
  | callR sr => exact steady_of_calls (calls_callR sr) rfl h
  | callX sr1 sr2 => exact steady_of_calls (calls_callX sr1 sr2) rfl h
  | scl n =>
    obtain rfl | henters := exec_scl_cases h
    · exact .raised s _
    · exact ⟨entersThrough_pc henters, nofun⟩
  | ret => exact steady_ret h
  | reti => exact steady_of_privileged rfl h fun hs => steady_reti hs h
  | ldbA | ldbR | ldbX => exact steady_of_loadsResult (loadsResult_loadByte fun _ => rfl) h
  | ldsA | ldsR | ldsX => exact steady_of_loadsResult (loadsResult_loadShort fun _ => rfl) h
  | ldwA | ldwR | ldwX => exact steady_of_loadsResult (loadsResult_loadWord fun _ => rfl) h
  | stbA | stbR | stbX => exact steady_of_storesRegister (storesRegister_storeByte fun _ => rfl) rfl h
  | stsA | stsR | stsX => exact steady_of_storesRegister (storesRegister_storeShort fun _ => rfl) rfl h
  | stwA | stwR | stwX => exact steady_of_storesRegister (storesRegister_storeWord fun _ => rfl) rfl h
  | pushi imm =>
    exact steady_of_pushesValue (pushesValue_of_exec (v := fun _ => signed16 imm) fun _ => rfl) rfl h
  | pushu imm =>
    exact steady_of_pushesValue (pushesValue_of_exec (v := fun _ => unsigned16 imm) fun _ => rfl) rfl h
  | pushb =>
    exact steady_of_pushesValue (pushesValue_of_exec_pushFrom (fun v => signedByte (lowByte v)) fun _ => rfl) rfl h
  | pushs =>
    exact steady_of_pushesValue (pushesValue_of_exec_pushFrom (fun v => signedShort (lowShort v)) fun _ => rfl) rfl h
  | pushw => exact steady_of_pushesValue (pushesValue_pushw _) rfl h
  | popb => exact steady_of_popsValue (popsValue_of_exec Memory.readByte withLowByte fun _ => rfl) h
  | pops => exact steady_of_popsValue (popsValue_of_exec Memory.readShort withLowShort fun _ => rfl) h
  | popw => exact steady_of_popsValue (popsValue_popw _) h
  | inR dr sr => exact steady_of_privileged rfl h fun hs => steady_of_readsPort hs (.inr ⟨sr, rfl, rfl⟩) h
  | inI dr p => exact steady_of_privileged rfl h fun hs => steady_of_readsPort hs (.inl rfl) h
  | outR dr sr => exact steady_of_privileged rfl h fun hs => steady_of_writesPort hs (.inr ⟨dr, rfl, rfl⟩) h
  | outI p sr => exact steady_of_privileged rfl h fun hs => steady_of_writesPort hs (.inl rfl) h
  | ssspA | ssspR => exact steady_of_privileged rfl h fun hs => steady_of_setSupervisorStack hs h
  | halt =>
    refine steady_of_privileged rfl h fun hs => ?_
    rw [exec_halt hs] at h
    cases h
    exact .of_eq rfl fun _ => rfl

/-! ## The invariant -/

/-- No update takes memory out of its canonical form. -/
theorem Updates.wf {i : Instr} {s t : State} (h : Updates i s t) (hs : s.mem.wf = true) : t.mem.wf = true := by
  induction h with
  | refl => exact hs
  | tail _ hu ih =>
    cases hu with
    | byte v => exact Memory.wf_writeByte _ v ih
    | short v => exact Memory.wf_writeShort _ v ih
    | word v | frame _ v => exact Memory.wf_writeWord _ v ih
    | _ => exact ih

/-- Only SSSP writes `ssp`, and it checks the address first. -/
theorem exec_ssp_aligned {i : Instr} {s t : State} (h : exec i s = .next t) (hs : s.ssp.toNat % 4 = 0) :
    t.ssp.toNat % 4 = 0 := by
  by_cases hne : t.ssp = s.ssp
  · rw [hne, hs]
  · obtain ⟨hmode, ⟨a, rfl⟩ | ⟨r, rfl⟩⟩ := exec_ssp_ne h hne
    all_goals
      obtain ⟨e, rfl⟩ | ⟨ha, rfl⟩ := setSupervisorStack_cases hmode h
      · exact hs
      · exact ha

/-- No instruction lengthens the input queue. -/
theorem exec_inQueue_length_le {i : Instr} {s t : State} (h : exec i s = .next t) :
    t.inQueue.length ≤ s.inQueue.length := by
  by_cases hne : t.inQueue = s.inQueue
  · rw [hne]
  · obtain ⟨b, hb⟩ := exec_inQueue_ne h hne
    rw [hb]
    exact Nat.le_succ _

/-- The record of an error is no part of the invariant. -/
theorem State.Inv.withFault {s : State} (hs : s.Inv) (e : MachineError) : (s.withFault e).Inv := { hs with }

/-- The advance of `pc` keeps its alignment, at the top of the address space too. -/
theorem State.Inv.advance {s : State} (hs : s.Inv) : (s.setPc (s.pc + 4#20)).Inv :=
  { hs with
    pc := by
      have hpc := hs.pc
      rw [State.setPc_pc, BitVec.toNat_add, BitVec.toNat_ofNat]
      omega }

theorem State.Inv.exec {i : Instr} {s t : State} (hs : s.Inv) (h : exec i s = .next t) : t.Inv where
  memory := (exec_updates h).wf hs.memory
  pc := (exec_steady h).pc.elim (fun hpc => hpc ▸ hs.pc) id
  ssp := exec_ssp_aligned h hs.ssp
  pending := (exec_updates h).queue_eq.1 ▸ hs.pending
  queue := (exec_inQueue_length_le h).trans hs.queue

theorem State.Inv.serviceInterrupt {v : Vect} {s t : State} (hs : s.Inv)
    (h : perform (serviceInterrupt v) s = .next t) : t.Inv := by
  have hupdates := serviceInterrupt_updates h
  obtain ⟨hpending, -⟩ := hupdates.queue_eq
  obtain ⟨hqueue, -, -⟩ := hupdates.input_eq (by simp [IsIn])
  exact {
    memory := hupdates.wf hs.memory
    pc := (serviceInterrupt_pc h).elim (fun hpc => hpc ▸ hs.pc) id
    ssp := serviceInterrupt_ssp h ▸ hs.ssp
    pending := hpending ▸ hs.pending
    queue := hqueue ▸ hs.queue }

/-- The environment raises a vector into the set, and respects the bound of the queue (60_exceptions.md R277). -/
theorem State.Inv.environment {s : State} (hs : s.Inv) : (environment s).Inv := by
  rcases environment_cases s with ⟨-, h⟩ | ⟨bs, later, -, ⟨-, h⟩ | ⟨-, hbound, h⟩⟩ <;> rw [h]
  · exact hs
  · exact { hs with }
  · refine { hs with pending := pairwise_insertVect 8 hs.pending, queue := ?_ }
    rw [State.setPending_inQueue, State.setInQueue_inQueue, List.length_append]
    exact hbound

theorem State.Inv.taken {s : State} (hs : s.Inv) (v : Vect) (d : Nat) : (taken s v d).Inv :=
  { hs.environment with pending := hs.environment.pending.sublist List.erase_sublist }

theorem State.Inv.runInstruction {s t : State} (hs : s.Inv) (h : runInstruction s = .next t) : t.Inv := by
  rcases runInstruction_cases h with ⟨e, rfl⟩ | ⟨e, rfl⟩ | ⟨i, -, hexec⟩
  · exact hs.withFault e
  · exact hs.advance.withFault e
  · exact hs.advance.exec hexec

/-- Settles O41: the environment keeps the invariant, and so does what the cycle does after it. -/
theorem everyStepKeepsInv : Obligations.EveryStepKeepsInv := by
  intro s t hs h
  rcases step_cases s with ⟨hterminal, -⟩ | ⟨r, -, ⟨-, hr⟩ | ⟨-, hn⟩⟩
  · have hrun : s.Running := (State.terminal_eq_none_iff s).1 hterminal
    by_cases hp : (Machine.environment s).pending = []
    · rw [step_eq_runInstruction hrun hp] at h
      exact hs.environment.runInstruction h
    · obtain ⟨v, d, -, hstep⟩ := step_eq_service_of_pending hrun hp
      exact (hs.taken v d).serviceInterrupt (hstep.symm.trans h)
  · rw [hr] at h
    cases h
  · rw [hn] at h
    cases h
    exact hs.environment

/-- Settles O40: at reset memory lists nothing, and the machine is idle. -/
theorem resetMeetsInv : Obligations.ResetMeetsInv :=
  ⟨⟨Memory.wf_reset, by decide, by decide, .nil, by decide⟩, ⟨rfl, rfl⟩, rfl, rfl, rfl, rfl⟩

end Sys2Proof.Machine
end

section
/-! The step of the machine (70_reset_and_hazards.md R296 to R301): that a running machine takes one, what the
environment does before it, and the errors of the fetch. -/

namespace Sys2Proof.Machine

/-! ## Every machine that has not stopped steps -/

/-- Every instruction answers a next state, with or without an error. -/
theorem exec_next (i : Instr) (s : State) : ∃ t, exec i s = .next t := by
  by_cases hrun : isPrivileged i = false ∨ s.supervisor = true
  · obtain ⟨act, -, hexec⟩ := exists_runsAs i
    rw [hexec s hrun]
    exact perform_next act s
  · obtain ⟨hi, hs⟩ : isPrivileged i = true ∧ s.supervisor = false := by simpa using hrun
    exact ⟨_, exec_privileged_user hi hs⟩

/-- The instruction cycle answers a next state, whatever the fetch reads. -/
theorem runInstruction_next (s : State) : ∃ t, runInstruction s = .next t := by
  cases hf : fetch s with
  | error e u => exact ⟨_, runInstruction_of_fetch_error hf⟩
  | ok w u =>
    cases hw : decodeWord w with
    | error r => exact ⟨_, runInstruction_of_illegal hf hw⟩
    | ok i =>
      obtain ⟨t, ht⟩ := exec_next i u
      exact ⟨t, (runInstruction_of_isWord hf hw).trans ht⟩

/-- A running machine steps: with a vector pending it serves one, else it runs an instruction. -/
theorem step_next_of_running {s : State} (hrun : s.Running) : ∃ t, step s = .next t := by
  by_cases hp : (environment s).pending = []
  · rw [step_eq_runInstruction hrun hp]
    exact runInstruction_next _
  · obtain ⟨v, d, -, hstep⟩ := step_eq_service_of_pending hrun hp
    rw [hstep]
    exact perform_next _ _

/-- A machine in a terminal state with events to come only receives one of them. -/
theorem step_terminal_receive {s : State} (hrun : ¬ s.Running) (harr : s.arrivals ≠ []) :
    step s = .next (environment s) := by
  rcases step_cases s with ⟨hterminal, -⟩ | ⟨r, -, ⟨hnil, -⟩ | ⟨-, hn⟩⟩
  · exact absurd ((State.terminal_eq_none_iff s).1 hterminal) hrun
  · exact absurd hnil harr
  · exact hn

/-- Settles O42: a running machine's cycle always answers, and a terminal one's step is the environment's alone. -/
theorem runningMachineSteps : Obligations.RunningMachineSteps := by
  refine ⟨exec_next, fun s => step_next_of_running, fun s e hf harr => ?_, fun s => step_halted_stop,
    fun s hrun harr => ⟨step_terminal_receive hrun harr, onlyReceives_environment s⟩⟩
  simp only [step, State.terminal_of_fault hf, harr]

/-! ## The environment -/

/-- Settles O45: the three things the environment can do exclude each other by the length of the entry. -/
theorem arrivalsAtTheBoundary : Obligations.ArrivalsAtTheBoundary := by
  intro s
  rcases environment_cases s with ⟨harr, h⟩ | ⟨bs, later, harr, ⟨hnot, h⟩ | ⟨hbs, hfit, h⟩⟩
  · exact ⟨fun _ => h, fun bs later hcons => absurd (harr.symm.trans hcons) (List.cons_ne_nil bs later).symm⟩
  · refine ⟨fun hnil => absurd (harr.symm.trans hnil) (List.cons_ne_nil bs later), fun bs' later' hcons => ?_⟩
    obtain ⟨rfl, rfl⟩ := List.cons.inj (harr.symm.trans hcons)
    exact ⟨fun hbs hfit => absurd hnot (not_or.2 ⟨hbs, Nat.not_lt.2 hfit⟩), fun _ => h⟩
  · refine ⟨fun hnil => absurd (harr.symm.trans hnil) (List.cons_ne_nil bs later), fun bs' later' hcons => ?_⟩
    obtain ⟨rfl, rfl⟩ := List.cons.inj (harr.symm.trans hcons)
    refine ⟨fun _ _ => ?_, fun hnot => absurd hnot (not_or.2 ⟨hbs, Nat.not_lt.2 hfit⟩)⟩
    rw [h]
    exact ⟨rfl, fun v => mem_insertVect 8 v s.pending, pairwise_insertVect 8⟩

/-! ## The errors of the fetch -/

/-- The instruction cycle in user mode, with `pc` in the protected address space. -/
theorem runInstruction_protected {s : State} (ha : s.pc.toNat % 4 = 0) (hacc : ¬ accessible s s.pc) :
    runInstruction s = .next (raised s (.protectionError s.pc)) := by
  refine runInstruction_of_fetch_error ?_
  rw [fetch_eq, (aligned_eq_true_iff s.pc 4).2 ha, (mayAccess_eq_false_iff s s.pc).2 hacc]
  rfl

/-- Settles O44: the environment leaves `pc`, `ms` and memory, so the fetch ends after it as it would before it. -/
theorem fetchErrors : Obligations.FetchErrors := by
  intro s hrun hp hpc
  have hpc' : (environment s).pc.toNat % 4 = 0 := by rwa [environment_pc]
  have hacc' : accessible (environment s) (environment s).pc ↔ accessible s s.pc := by
    rw [environment_pc, accessible_congr (environment_ms s)]
  rw [step_eq_runInstruction hrun hp]
  refine ⟨fun hacc => ?_, fun hacc r hword => ?_⟩
  · rw [runInstruction_protected hpc' (mt hacc'.1 hacc), environment_pc]
  · have hfetch := fetch_ok hpc' (hacc'.2 hacc)
    rw [wordAt_environment, environment_pc] at hfetch
    exact runInstruction_of_illegal hfetch hword

end Sys2Proof.Machine
end

section
/-! Interrupts (60_exceptions.md sections 3 to 5): a step with vectors pending is the service of one of them, on what the
environment has left of the state. And the only ways into supervisor mode (R249). -/

namespace Sys2Proof.Machine

/-! ## The state a vector is served in -/

theorem taken_ms (s : State) (v : Vect) (d : Nat) : (taken s v d).ms = s.ms := environment_ms s

theorem taken_ssp (s : State) (v : Vect) (d : Nat) : (taken s v d).ssp = s.ssp := environment_ssp s

theorem taken_reg (s : State) (v : Vect) (d : Nat) (r : Reg) : (taken s v d).reg r = s.reg r := environment_reg s r

theorem taken_mem (s : State) (v : Vect) (d : Nat) : (taken s v d).mem = s.mem := environment_mem s

/-! ## One vector pending -/

/-- The service of the vector in a step that serves it, in the words of the statements. -/
theorem servesThrough_step {s u : State} {v : Vect} (hmem : u.mem = s.mem)
    (hstep : step s = perform (serviceInterrupt v) u) :
    servesThrough u (step s) (wordAt s (BitVec.ofNat 20 (4 * v.val))) := by
  have hentry : wordAt s (BitVec.ofNat 20 (4 * v.val)) = wordAt u (ivtAddr v) := by
    rw [wordAt, ← hmem]
    rfl
  rw [hstep, hentry]
  exact servesThrough_serviceInterrupt v u

/-- With one vector pending, the step is its service. -/
theorem servesThrough_of_singleton {s : State} {v : Vect} (hrun : s.Running) (hp : (environment s).pending = [v]) :
    servesThrough { environment s with pending := [] } (step s) (wordAt s (BitVec.ofNat 20 (4 * v.val))) :=
  servesThrough_step (environment_mem s) (step_eq_service_of_singleton hrun hp)

/-- Settles O46: the service of the one vector, from user mode. -/
theorem interruptFromUserMode : Obligations.InterruptFromUserMode := by
  intro s v hrun hp hmode henabled
  obtain ⟨-, huser, -⟩ := servesThrough_of_singleton hrun hp
  have henters := huser henabled ((congrArg (BitVec.getLsbD · 16) (environment_ms s)).trans hmode)
  rwa [← environment_ssp, ← environment_reg, ← environment_ms, ← environment_pc]

/-- Settles O47: the service of the one vector, from supervisor mode. -/
theorem interruptFromSupervisorMode : Obligations.InterruptFromSupervisorMode := by
  intro s v hrun hp hmode henabled
  obtain ⟨-, -, hsupervisor⟩ := servesThrough_of_singleton hrun hp
  have henters := hsupervisor henabled ((congrArg (BitVec.getLsbD · 16) (environment_ms s)).trans hmode)
  rwa [← environment_reg, ← environment_ms, ← environment_pc]

/-- Settles O48: the service of the one vector, where its entry is disabled. -/
theorem disabledInterruptIsLost : Obligations.DisabledInterruptIsLost := by
  intro s v hrun hp hdisabled
  obtain ⟨hlost, -, -⟩ := servesThrough_of_singleton hrun hp
  exact hlost hdisabled

/-! ## Several vectors pending -/

/-- What the service of a vector keeps of the registers and of the record of an error. -/
theorem servesThrough_frame {s t : State} {entry : Word} (h : servesThrough s (.next t) entry) :
    keepsRegs s t [15#5] ∧ (t.fault = s.fault ∨ ∃ a, t.fault = some (.alignmentError a 4)) := by
  rcases servesThrough_cases h with ⟨-, rfl⟩ | ⟨-, henters⟩
  · exact ⟨fun _ _ => rfl, .inl rfl⟩
  · rcases entersThrough_cases henters with ⟨u, ⟨⟨-, hregs, -⟩, -, ⟨-, -, -, hfault, -⟩, -⟩, hend⟩ | rfl
    · obtain ⟨rfl, -⟩ | ⟨rfl, -⟩ := hend
      · exact ⟨hregs, .inl hfault⟩
      · exact ⟨hregs, .inr ⟨_, rfl⟩⟩
    · exact ⟨fun r hr => (reg_movedTo s _ r).trans (if_neg (List.ne_of_not_mem_cons hr)), .inr ⟨_, rfl⟩⟩

/-- What the service of a vector keeps of the rest of the state: it makes no update that SCL may not make. -/
theorem serviceInterrupt_frame {v : Vect} {s t : State} (h : perform (serviceInterrupt v) s = .next t) :
    t.pending = s.pending ∧ t.ssp = s.ssp ∧ t.halted = s.halted ∧ t.inQueue = s.inQueue ∧ t.output = s.output ∧
      t.clock = s.clock ∧ ∀ k, k ≠ 16 → t.ms.getLsbD k = s.ms.getLsbD k := by
  have hupdates := serviceInterrupt_updates h
  obtain ⟨hpending, -⟩ := hupdates.queue_eq
  obtain ⟨hqueue, hclock, -⟩ := hupdates.input_eq (by simp [IsIn])
  exact ⟨hpending, serviceInterrupt_ssp h, Updates.halted_eq (i := .scl 0) nofun hupdates, hqueue,
    hupdates.output_eq (by simp [IsOut]), hclock, fun k hk => Updates.ms_bit (i := .scl 0) nofun hk (.inl rfl) hupdates⟩

/-- Settles O49: the vector is one that is pending, and its service starts from what the environment has left. -/
theorem pendingIsServedOneByOne : Obligations.PendingIsServedOneByOne := by
  intro s hrun hp
  obtain ⟨v, d, hv, hstep⟩ := step_eq_service_of_pending hrun hp
  obtain ⟨t, ht⟩ := step_next_of_running hrun
  have hserves := servesThrough_step (u := taken s v d) (environment_mem s) hstep
  obtain ⟨hregs, hfault⟩ := servesThrough_frame (ht ▸ hserves)
  obtain ⟨hpending, hssp, hhalted, hqueue, houtput, hclock, hms⟩ := serviceInterrupt_frame (hstep.symm.trans ht)
  have hnone : (taken s v d).fault = none :=
    (environment_preserves (f := State.fault) (fun _ _ _ _ => rfl) s).trans hrun.1
  exact ⟨v, t, d, hv, ht, hpending, fun r hr => (hregs r hr).trans (environment_reg s r),
    hssp.trans (environment_ssp s), hhalted.trans (environment_halted s), hqueue, houtput.trans (environment_output s),
    hclock.trans (environment_clock s),
    fun k hk => (hms k hk).trans (congrArg (BitVec.getLsbD · k) (environment_ms s)), hfault.imp_left (·.trans hnone),
    hserves⟩

/-! ## Entering supervisor mode -/

/-- An entry that raises no error enters supervisor mode. -/
theorem entersMode_of_fault_none {s t : State} {top : Word} {words : List Word} {handler : Addr}
    (h : entersThrough s (.next t) top words handler) (hf : t.fault = none) : entersMode s t top words := by
  rcases entersThrough_cases h with ⟨u, henters, ⟨rfl, -⟩ | ⟨rfl, -⟩⟩ | rfl
  · exact henters
  · cases hf
  · cases hf

/-- The place of the old `ms` in the frame of an entry on the supervisor stack. -/
theorem wordAt_entersMode_user {s t : State} {w w' : Word} (hm : s.mem.wf = true)
    (h : entersMode s t (zext s.ssp) [w, s.ms, w']) : wordAt t (low20 (zext s.ssp - 8#32)) = s.ms := by
  obtain ⟨⟨-, -, hwords, -⟩, -⟩ := h
  exact hwords hm 1 (by simp)

/-- The place of the old `ms` in the frame of an entry on the current stack. -/
theorem wordAt_entersMode_supervisor {s t : State} {w : Word} (hm : s.mem.wf = true)
    (h : entersMode s t (s.reg 15#5) [s.ms, w]) : wordAt t (low20 (s.reg 15#5 - 4#32)) = s.ms := by
  obtain ⟨⟨-, -, hwords, -⟩, -⟩ := h
  exact hwords hm 0 (by simp)

/-- The place of the old `ms` in the frame of an interrupt, in either mode. -/
theorem wordAt_entersMode_service {s t : State} (hm : s.mem.wf = true)
    (h : entersMode s t (serviceTop s) (serviceFrame s)) :
    wordAt t (low20 (if s.ms.getLsbD 16 then s.reg 15#5 - 4#32 else zext s.ssp - 8#32)) = s.ms := by
  unfold serviceTop serviceFrame at h
  split at h
  · next hmode => rw [if_pos hmode, wordAt_entersMode_supervisor hm h]
  · next hmode => rw [if_neg hmode, wordAt_entersMode_user hm h]

/-- An entry from user mode that has changed the mode has saved the old `ms`, an error of the handler's address or
not. -/
theorem wordAt_entersThrough_user {s t : State} {w w' : Word} {handler : Addr}
    (h : entersThrough s (.next t) (zext s.ssp) [w, s.ms, w'] handler) (hmode : t.ms ≠ s.ms) (hm : s.mem.wf = true) :
    wordAt t (low20 (zext s.ssp - 8#32)) = s.ms := by
  rcases entersThrough_cases h with ⟨u, henters, ⟨rfl, -⟩ | ⟨rfl, -⟩⟩ | rfl
  · exact wordAt_entersMode_user hm henters
  · exact wordAt_entersMode_user (t := u) hm henters
  · exact absurd rfl hmode

/-- SCL that raises no error. -/
theorem exec_scl_saves {n : BitVec 6} {s t : State} (h : exec (.scl n) s = .next t) (hf : t.fault = none) :
    t.ms.getLsbD 16 = true ∧ (s.mem.wf = true → wordAt t (low20 (zext s.ssp - 8#32)) = s.ms) := by
  obtain rfl | henters := exec_scl_cases h
  · cases hf
  · have hmode := entersMode_of_fault_none henters hf
    exact ⟨entersMode_mode hmode, fun hm => wordAt_entersMode_user hm hmode⟩

/-- A step that serves an enabled vector and raises no error. -/
theorem step_service_saves {s t : State} (hrun : s.Running) (h : step s = .next t) (hp : (environment s).pending ≠ [])
    (henabled : ∀ v ∈ (environment s).pending, (wordAt s (BitVec.ofNat 20 (4 * v.val))).getLsbD 31 = true)
    (hf : t.fault = none) :
    t.ms.getLsbD 16 = true ∧ (s.mem.wf = true →
      wordAt t (low20 (if s.ms.getLsbD 16 then s.reg 15#5 - 4#32 else zext s.ssp - 8#32)) = s.ms) := by
  obtain ⟨v, d, hv, hstep⟩ := step_eq_service_of_pending hrun hp
  have hserves := servesThrough_step (u := taken s v d) (environment_mem s) hstep
  rcases servesThrough_cases (h ▸ hserves) with ⟨hdisabled, -⟩ | ⟨-, henters⟩
  · rw [henabled v hv] at hdisabled
    cases hdisabled
  · have hmode := entersMode_of_fault_none henters hf
    refine ⟨entersMode_mode hmode, fun hm => ?_⟩
    have hsaved := wordAt_entersMode_service (by rwa [taken_mem]) hmode
    rwa [taken_ms, taken_reg, taken_ssp] at hsaved

/-- An instruction cycle that goes from user mode to supervisor mode ran SCL, and has saved the old `ms`: no other
instruction leaves its confines in user mode. -/
theorem runInstruction_enters_supervisor {s t : State} (h : runInstruction s = .next t)
    (hs : s.ms.getLsbD 16 = false) (ht : t.ms.getLsbD 16 = true) :
    (∃ n, isWord (wordAt s s.pc) (.scl n)) ∧
      (s.mem.wf = true → wordAt t (low20 (zext s.ssp - 8#32)) = s.ms) := by
  have hmode : t.ms ≠ s.ms := fun he => by rw [he, hs] at ht; cases ht
  rcases runInstruction_cases h with ⟨e, rfl⟩ | ⟨e, rfl⟩ | ⟨i, hw, hexec⟩
  · exact absurd rfl hmode
  · exact absurd rfl hmode
  · obtain ⟨n, rfl⟩ : IsScl i := by
      by_contra hscl
      have hkept := (exec_confined (s := s.setPc (s.pc + 4#20)) hscl hs hexec).ms 16 (by decide)
      rw [ht, State.setPc_ms, hs] at hkept
      cases hkept
    rcases exec_scl_cases hexec with rfl | henters
    · exact absurd rfl hmode
    · exact ⟨⟨n, hw⟩, wordAt_entersThrough_user (s := s.setPc (s.pc + 4#20)) henters hmode⟩

/-- The service of a vector that goes from user mode to supervisor mode goes through an enabled entry, and has saved the
old `ms`. -/
theorem servesThrough_enters_supervisor {s t : State} {entry : Word} (h : servesThrough s (.next t) entry)
    (hs : s.ms.getLsbD 16 = false) (hmode : t.ms ≠ s.ms) :
    entry.getLsbD 31 = true ∧ (s.mem.wf = true → wordAt t (low20 (zext s.ssp - 8#32)) = s.ms) := by
  obtain ⟨hdisabled, huser, -⟩ := h
  cases henabled : entry.getLsbD 31 with
  | false =>
    cases hdisabled henabled
    exact absurd rfl hmode
  | true => exact ⟨rfl, wordAt_entersThrough_user (huser henabled hs) hmode⟩

/-- A step from user mode to supervisor mode served an enabled vector or ran SCL, and has saved the old `ms`. -/
theorem step_enters_supervisor {s t : State} (h : step s = .next t) (hs : s.ms.getLsbD 16 = false)
    (ht : t.ms.getLsbD 16 = true) :
    ((∃ v ∈ (environment s).pending, (wordAt s (BitVec.ofNat 20 (4 * v.val))).getLsbD 31 = true) ∨
      (environment s).pending = [] ∧ ∃ n, isWord (wordAt s s.pc) (.scl n)) ∧
    (s.mem.wf = true → wordAt t (low20 (zext s.ssp - 8#32)) = s.ms) := by
  have hmode : t.ms ≠ s.ms := fun he => by rw [he, hs] at ht; cases ht
  rcases step_cases s with ⟨hterminal, -⟩ | ⟨r, -, ⟨-, hr⟩ | ⟨-, hn⟩⟩
  · have hrun : s.Running := (State.terminal_eq_none_iff s).1 hterminal
    by_cases hp : (environment s).pending = []
    · rw [step_eq_runInstruction hrun hp] at h
      have hscl := runInstruction_enters_supervisor h (by rwa [environment_ms]) ht
      rw [wordAt_environment, environment_pc, environment_mem, environment_ssp, environment_ms] at hscl
      obtain ⟨hword, hsaved⟩ := hscl
      exact ⟨.inr ⟨hp, hword⟩, hsaved⟩
    · obtain ⟨v, d, hv, hstep⟩ := step_eq_service_of_pending hrun hp
      have hserves := servesThrough_step (u := taken s v d) (environment_mem s) hstep
      have henters := servesThrough_enters_supervisor (h ▸ hserves) (by rwa [taken_ms]) (by rwa [taken_ms])
      rw [taken_mem, taken_ssp, taken_ms] at henters
      obtain ⟨henabled, hsaved⟩ := henters
      exact ⟨.inl ⟨v, hv, henabled⟩, hsaved⟩
  · rw [hr] at h
    cases h
  · rw [hn] at h
    cases h
    exact absurd (environment_ms s) hmode

/-- Settles O51: what SCL and the service of a vector save, and that neither leaves supervisor mode. -/
theorem enteringSupervisorMode : Obligations.EnteringSupervisorMode := by
  refine ⟨fun s t n => exec_scl_saves, fun s t => step_service_saves, fun s t => step_enters_supervisor,
    fun s t h hp hs => ?_, fun s t n h hs => Updates.supervisor (i := .scl n) nofun (exec_updates h) hs⟩
  have hs' : modeIndicator (environment s).ms = true := by rwa [environment_ms]
  rcases step_next_cases h with rfl | ⟨v, vs, d, -, hv⟩ | ⟨hnil, -⟩
  · exact hs'
  · exact Updates.supervisor (i := .scl 0) nofun (serviceInterrupt_updates hv) hs'
  · exact absurd hnil hp

end Sys2Proof.Machine
end

section
/-! The flags of a value (10_state.md R31), the words that the rules give as worked examples, and the copies
(44_copy_stack.md section 1). -/

namespace Sys2Proof.Machine
open Laws

/-! ## Flags -/

theorem isZero_eq_decide {n : Nat} (x : BitVec n) : isZero x = decide (x.toInt = 0) := by
  have hzero : x.toInt = 0 ↔ x = 0#n := by rw [← BitVec.toInt_inj, BitVec.toInt_zero]
  simp only [isZero, hzero]
  rfl

theorem isNegative_eq_decide {n : Nat} (x : BitVec n) : isNegative x = decide (x.toInt < 0) :=
  BitVec.msb_eq_toInt

theorem isPositive_eq_decide {n : Nat} (x : BitVec n) : isPositive x = decide (0 < x.toInt) := by
  rw [isPositive, isZero_eq_decide, isNegative_eq_decide, ← decide_not, ← decide_not, ← Bool.decide_and,
    decide_eq_decide]
  omega

/-- Of the signs of a number exactly one holds. -/
theorem one_sign (z : Int) : (decide (z = 0)).toNat + (decide (0 < z)).toNat + (decide (z < 0)).toNat = 1 := by
  rcases lt_trichotomy z 0 with h | rfl | h
  · simp [h, h.ne, h.le.not_gt]
  · rfl
  · simp [h, h.ne', h.le.not_gt]

/-- Settles O5: each flag is the bit `SetFlags` writes, and that bit is a sign of the value. -/
theorem setFlagsReading : Obligations.SetFlagsReading := by
  intro n x ms
  have hzero : zeroFlag (withFlagsOf x ms) = decide (x.toInt = 0) := by
    rw [zeroFlag, getLsbD_withFlagsOf, if_pos rfl, isZero_eq_decide]
  have hpositive : positiveFlag (withFlagsOf x ms) = decide (0 < x.toInt) := by
    rw [positiveFlag, getLsbD_withFlagsOf, if_neg (by decide), if_pos rfl, isPositive_eq_decide]
  have hnegative : negativeFlag (withFlagsOf x ms) = decide (x.toInt < 0) := by
    rw [negativeFlag, getLsbD_withFlagsOf, if_neg (by decide), if_neg (by decide), if_pos rfl, isNegative_eq_decide]
  refine ⟨hzero, hpositive, hnegative, ?_, fun k hk => ?_⟩
  · rw [hzero, hpositive, hnegative, one_sign]
  · rw [getLsbD_withFlagsOf, if_neg (by omega), if_neg (by omega), if_neg (by omega)]

/-! ## The words of the rules -/

/-- Settles O4: each word is the one the encoder writes. -/
theorem sampleWordsDecode : Obligations.SampleWordsDecode := by
  refine ⟨?_, ?_, ?_, ?_, ?_, ?_, ?_, ?_, ?_, ?_, ?_, ?_, ?_, ?_, ?_, ?_⟩ <;>
    exact isWord_of_encode rfl (by decide)

/-- The words of the copies (R200 to R202): the rules write opcode and selector as one constant. -/
theorem isWord_copy (dr sr : Reg) (imm16 : BitVec 16) :
    isWord (0x10000000#32 ||| place dr 18 ||| place sr 0) (.cpy dr sr) ∧
      isWord (0x10020000#32 ||| place dr 18 ||| place imm16 0) (.cpyi dr imm16) ∧
      isWord (0x10030000#32 ||| place dr 18 ||| place imm16 0) (.cpyu dr imm16) := by
  refine ⟨isWord_of_encode rfl ?_, isWord_of_encode rfl ?_, isWord_of_encode rfl ?_⟩ <;>
    simp only [encode, pack_eq_place, place_append, place_zero, BitVec.or_zero]
  · rfl
  · rw [or_right_comm _ (place dr _)]; rfl
  · rw [or_right_comm _ (place dr _)]; rfl

/-! ## Copies -/

/-- A register written, and nothing else. -/
theorem setReg_frame (s : State) (dr : Reg) (v : Word) :
    (s.setReg dr v).reg dr = v ∧ keepsRegs s (s.setReg dr v) [dr] ∧ (s.setReg dr v).ms = s.ms ∧
      (s.setReg dr v).pc = s.pc ∧ keepsMemory s (s.setReg dr v) ∧ keepsSystem s (s.setReg dr v) ∧
      keepsDevices s (s.setReg dr v) :=
  ⟨State.reg_setReg_same s dr v, fun _ hr => State.reg_setReg_ne s v (List.ne_of_not_mem_cons hr), rfl,
    frame_of_eq rfl⟩

/-- Settles O28: each copy is one write of a register, of the value its rule gives. -/
theorem copiesLeaveFlags : Obligations.CopiesLeaveFlags := by
  intro dr sr imm16
  obtain ⟨hC, hI, hU⟩ := isWord_copy dr sr imm16
  refine ⟨hC, hI, hU, fun s i v hi => ⟨s.setReg dr v, ?_, setReg_frame s dr v⟩⟩
  rcases hi with ⟨rfl, rfl⟩ | ⟨rfl, rfl⟩ | ⟨rfl, rfl⟩
  · rfl
  · rfl
  · rw [BitVec.ofNat_toNat]
    rfl

end Sys2Proof.Machine
end

section
/-! What is read back: a word pushed and popped (44_copy_stack.md R208, R212), and a word loaded twice with no store to
it in between, written or not (20_memory.md R59, R66). -/

namespace Sys2Proof.Machine

/-! ## A push and its pop -/

/-- Settles O31: the push leaves R15 at the word it has stored, so the pop reads it and puts R15 back. -/
theorem pushThenPop : Obligations.PushThenPop := by
  intro s t sr dr hm hpush hdr hexec
  obtain ⟨hok, -⟩ := pushesValue_pushw sr s
  obtain ⟨t', ht, ⟨hsp, hregs, hstore, hms, -⟩, hpc⟩ := hok hpush
  obtain rfl : t' = t := Host.Outcome.next.inj (ht.symm.trans hexec)
  obtain ⟨ha, hacc⟩ := hpush
  obtain ⟨hpop, -⟩ := popsValue_popw dr t'
  obtain ⟨u, hu, -, hvalue, hregs', hms', hpc', -⟩ :=
    hpop (by rwa [hsp]) (by rwa [hsp, accessible_congr hms])
  obtain ⟨hdr', hsp'⟩ := hvalue hdr
  have hback : wordAt t' (low20 (t'.reg 15#5)) = (decremented s).reg sr := by
    rw [hsp, wordAt_of_storesBytes hm hstore]
  refine ⟨u, hu, hdr'.trans hback, fun r hr => ?_, hms'.trans hms, hpc'.trans hpc⟩
  by_cases hr15 : r = 15#5
  · rw [hr15, hsp', hsp, pushedSp, BitVec.sub_add_cancel]
  · rw [hregs' r (by simpa [hr15] using hr), hregs r (by simpa using hr15)]

/-! ## A word loaded twice -/

/-- LDW of an address that passes its checks. -/
theorem exec_ldwA {s : State} {a : Addr} (ha : a.toNat % 4 = 0) (hacc : accessible s a) (dr : Reg) :
    ∃ t, exec (.ldwA dr a) s = .next t ∧ writesResult s t dr (wordAt s a) := by
  have hload : loadsResult (.ldwA dr a) dr 4 (fun _ => a) fun s => wordAt s a := loadsResult_loadWord fun _ => rfl
  obtain ⟨hok, -⟩ := hload s
  exact hok ha hacc

/-- A word is as it was where its four bytes are. -/
theorem wordAt_congr {s t : State} {a : Addr} (h : ∀ c, isWithin a 4 c → t.mem.readByte c = s.mem.readByte c) :
    wordAt t a = wordAt s a :=
  readsFrom_readWord a s.mem t.mem fun k hk => h _ ⟨k, hk, rfl⟩

/-- The flags of a value do not depend on what they replace. -/
theorem getLsbD_withFlagsOf_congr {n : Nat} (x : BitVec n) (ms ms' : Word) {k : Nat} (hk : k < 3) :
    (withFlagsOf x ms).getLsbD k = (withFlagsOf x ms').getLsbD k := by
  rw [getLsbD_withFlagsOf, getLsbD_withFlagsOf]
  split_ifs <;> [rfl; rfl; rfl; omega]

/-- The flags of a value are set once and for all. -/
theorem withFlagsOf_idem {n : Nat} (x : BitVec n) (ms : Word) :
    withFlagsOf x (withFlagsOf x ms) = withFlagsOf x ms := by
  apply BitVec.eq_of_getLsbD_eq
  intro k _
  by_cases hk : k < 3
  · exact getLsbD_withFlagsOf_congr x _ _ hk
  · rw [getLsbD_withFlagsOf, if_neg (by omega), if_neg (by omega), if_neg (by omega)]

/-- LDW again, of a word that is still what it was when it was loaded. -/
theorem exec_ldwA_again {s t u : State} {a : Addr} {dr : Reg} (ha : a.toNat % 4 = 0) (hacc : accessible u a)
    (hload : writesResult s t dr (wordAt s a)) (hword : wordAt u a = wordAt s a) :
    ∃ x, exec (.ldwA dr a) u = .next x ∧ x.reg dr = t.reg dr ∧
      (∀ k, k < 3 → x.ms.getLsbD k = t.ms.getLsbD k) ∧ (u.ms = t.ms → x.ms = t.ms) ∧ x.fault = u.fault ∧
      keepsMemory u x := by
  obtain ⟨hreg, -, ⟨hflags, -⟩, -⟩ := hload
  obtain ⟨x, hx, hreg', -, ⟨hflags', -⟩, -, hmem, ⟨-, -, -, hfault, -⟩, -⟩ := exec_ldwA ha hacc dr
  rw [hword] at hreg' hflags'
  refine ⟨x, hx, hreg'.trans hreg.symm, fun k hk => ?_, fun hms => ?_, hfault, hmem⟩
  · rw [hflags', hflags, getLsbD_withFlagsOf_congr _ _ _ hk]
  · rw [hflags', hms, hflags, withFlagsOf_idem]

/-- Two word-aligned words share no byte. -/
theorem not_isWithin_of_aligned {a b c : Addr} (ha : a.toNat % 4 = 0) (hb : b.toNat % 4 = 0) (hne : b ≠ a)
    (hc : isWithin a 4 c) : ¬ isWithin b 4 c := by
  rintro ⟨j, hj, hbj⟩
  obtain ⟨k, hk, hak⟩ := hc
  refine hne (BitVec.eq_of_toNat_eq ?_)
  have heq := congrArg BitVec.toNat (hak.symm.trans hbj)
  rw [BitVec.toNat_add, BitVec.toNat_add, BitVec.toNat_ofNat, BitVec.toNat_ofNat] at heq
  have := a.isLt
  have := b.isLt
  omega

/-- STW to another address than a word-aligned one, aligned or not: the four bytes there, and `ms`, are as they
were. -/
theorem exec_stwA_elsewhere {s t : State} {a b : Addr} {sr : Reg} (ha : a.toNat % 4 = 0) (hne : b ≠ a)
    (h : exec (.stwA b sr) s = .next t) :
    t.ms = s.ms ∧ ∀ c, isWithin a 4 c → t.mem.readByte c = s.mem.readByte c := by
  have hstore : storesRegister (.stwA b sr) 4 (fun _ => b) sr := storesRegister_storeWord fun _ => rfl
  obtain ⟨hok, halign, hprotect⟩ := hstore s
  by_cases hb : b.toNat % 4 = 0
  · obtain ⟨⟨-, hbytes⟩, -, hms, -⟩ | ⟨e, rfl⟩ := next_cases_of_checks hok halign hprotect h
    · exact ⟨hms, fun c hc => hbytes c (not_isWithin_of_aligned ha hb hne hc)⟩
    · exact ⟨rfl, fun _ _ => rfl⟩
  · cases (halign hb).symm.trans h
    exact ⟨rfl, fun _ _ => rfl⟩

/-- Settles O60: the second load reads the same word, since the first has stored nothing and the instruction between has
left its four bytes. -/
theorem unwrittenMemoryKeepsItsValue : Obligations.UnwrittenMemoryKeepsItsValue := by
  intro s t a dr ha hacc hexec
  obtain ⟨t', ht, hload⟩ := exec_ldwA ha hacc dr
  obtain rfl : t' = t := Host.Outcome.next.inj (ht.symm.trans hexec)
  have ⟨_, _, _, _, hmem, _⟩ := hload
  refine ⟨hmem, fun i u hu => ⟨(exec_steady hu).bytes, ?_, fun hbytes hacc' => ?_⟩⟩
  · rintro b sr rfl hne
    exact exec_stwA_elsewhere ha hne hu
  · have hword : wordAt u a = wordAt s a := (wordAt_congr hbytes).trans (wordAt_congr fun c _ => hmem c)
    exact exec_ldwA_again ha hacc' hload hword

end Sys2Proof.Machine
end

section
/-! The clock behind ports 4 and 5 (60_exceptions.md R271 to R273). -/

namespace Sys2Proof.Laws
open Machine

/-- The fields of the date word (R272). -/
theorem fields_dateWord (free : Word) (c : Clock) :
    ((dateWord free c).extractLsb' 20 5).toNat = c.day.val + 1 ∧
      ((dateWord free c).extractLsb' 16 4).toNat = c.month.val + 1 ∧ (dateWord free c).extractLsb' 0 16 = c.year := by
  have hday := c.day.isLt
  have hmonth := c.month.isLt
  simp only [dateWord, extract_pack]
  refine ⟨?_, ?_, BitVec.extractLsb'_append_eq_right⟩
  · rw [BitVec.extractLsb'_append_eq_of_le (by decide), BitVec.extractLsb'_append_eq_of_le (by decide),
      BitVec.extractLsb'_append_eq_right, BitVec.toNat_ofNat]
    omega
  · rw [BitVec.extractLsb'_append_eq_of_le (by decide), BitVec.extractLsb'_append_eq_right, BitVec.toNat_ofNat]
    omega

/-- The fields of the time word (R273). -/
theorem fields_timeWord (free : Word) (c : Clock) :
    ((timeWord free c).extractLsb' 12 5).toNat = c.hour.val ∧
      ((timeWord free c).extractLsb' 6 6).toNat = c.minute.val ∧
      ((timeWord free c).extractLsb' 0 6).toNat = c.second.val := by
  have hhour := c.hour.isLt
  have hminute := c.minute.isLt
  have hsecond := c.second.isLt
  simp only [timeWord, extract_pack]
  refine ⟨?_, ?_, ?_⟩
  · rw [BitVec.extractLsb'_append_eq_of_le (by decide), BitVec.extractLsb'_append_eq_of_le (by decide),
      BitVec.extractLsb'_append_eq_right, BitVec.toNat_ofNat]
    omega
  · rw [BitVec.extractLsb'_append_eq_of_le (by decide), BitVec.extractLsb'_append_eq_right, BitVec.toNat_ofNat]
    omega
  · rw [BitVec.extractLsb'_append_eq_right, BitVec.toNat_ofNat]
    omega

/-- IN in supervisor mode from a port whose read shows the clock and draws the undefined bits. -/
theorem inputs_of_clockRead {i : Instr} {dr : Reg} {p : Port} {s : State} {form : Word → Clock → Word}
    (hs : s.ms.getLsbD 16 = true) (hi : readsPort i dr p s)
    (hread : portRead p s = (Machine.readClock >>= fun now => drawBits >>= fun free => pure (form free now)) s) :
    ∃ t free, exec i s = .next t ∧ inputsTo s t dr ∧ t.inQueue = s.inQueue ∧ t.reg dr = form free t.clock :=
  ⟨_, _, exec_readsPort hs hi hread, inputsTo_writeResult s s.inQueue _ _ dr _, rfl,
    (State.reg_writeResult _ dr dr _).trans (if_pos rfl)⟩

/-- Settles O33: either port shows the clock in a word of its own, and each field's range is that of its type. -/
theorem readClock : Obligations.ReadClock := by
  refine fun i dr s hs => ⟨fun hi => ?_, fun hi => ?_⟩
  · obtain ⟨t, free, ht, hinputs, hqueue, hreg⟩ := inputs_of_clockRead (form := dateWord) hs hi rfl
    obtain ⟨hday, hmonth, hyear⟩ := fields_dateWord free t.clock
    rw [← hreg] at hday hmonth hyear
    exact ⟨t, ht, hinputs, hqueue, hday, hmonth, hyear, by omega, by omega, by omega, by omega⟩
  · obtain ⟨t, free, ht, hinputs, hqueue, hreg⟩ := inputs_of_clockRead (form := timeWord) hs hi rfl
    obtain ⟨hhour, hminute, hsecond⟩ := fields_timeWord free t.clock
    rw [← hreg] at hhour hminute hsecond
    exact ⟨t, ht, hinputs, hqueue, hhour, hminute, hsecond, by omega, by omega, by omega⟩

end Sys2Proof.Laws
end
